-- ==== Sys2Proof/Word.lean ====
section
/-! DEFINITION. The word types of the block: command words, symbol indices, ROM words and segment words. -/

namespace Sys2Proof

/-- A command word, `cmd_word[9:0]` (30_encoding.md R90). -/
abbrev CmdWord := BitVec 10

/-- The `data` field of a command word, `[7:0]` (R90). -/
abbrev Data := BitVec 8

/-- A symbol index, which is also a 7-bit ROM address and a BUF entry (20_memory.md R60, R66). -/
abbrev SymIdx := BitVec 7

/-- A ROM word: one symbol (30_encoding.md R97). -/
abbrev RomWord := BitVec 15

/-- A segment word `{last, bar, width}` (30_encoding.md R95). -/
abbrev SegWord := BitVec 5

end Sys2Proof
end

