-- ==== Sys2Proof/Syntax.lean ====
section
/-! DEFINITION. The command set: one constructor per row of spec/opcode_table.json. -/

namespace Sys2Proof

/-- The four commands (30_encoding.md R91). Each carries its whole `data` field, so that no bit of a
command word is lost: BEGIN ignores it, END and RSVD record it in `err_char` when they raise (R92). -/
inductive Instr where
  /-- BEGIN, `00xxxxxxxx` (40_commands.md R121). -/
  | beginCmd (data : Data)
  /-- CHAR c, `01cccccccc` (R122). -/
  | charCmd (c : Data)
  /-- END, `10xxxxxxxx` (R123). -/
  | endCmd (data : Data)
  /-- RSVD d, `11dddddddd` (R124). -/
  | rsvdCmd (d : Data)
deriving DecidableEq, Repr

end Sys2Proof
end

