-- ==== Sys2Proof/Decode.lean ====
section
/-! DEFINITION. The binary formats of 30_encoding.md: command words (decoder first, then the encoder), ROM words and segment words. -/

namespace Sys2Proof

/-! ### Command words, R90 to R92 -/

/-- A row of spec/opcode_table.json: its mnemonic, mask and match. -/
structure OpRow where
  mnemonic : String
  mask : CmdWord
  pattern : CmdWord
deriving DecidableEq, Repr

/-- The opcode map of R91, row for row. -/
def opcodeTable : List OpRow :=
  [⟨"BEGIN", 0x300#10, 0x000#10⟩, ⟨"CHAR", 0x300#10, 0x100#10⟩,
   ⟨"END", 0x300#10, 0x200#10⟩, ⟨"RSVD", 0x300#10, 0x300#10⟩]

/-- The row selects the word: its masked bits are the row's pattern (R91). -/
def OpRow.selects (r : OpRow) (w : CmdWord) : Bool :=
  w &&& r.mask == r.pattern

/-- The `op` field, bits `[9:8]` (R90). -/
def opField (w : CmdWord) : BitVec 2 :=
  w.extractLsb' 8 2

/-- The `data` field, bits `[7:0]` (R90). -/
def dataField (w : CmdWord) : Data :=
  w.extractLsb' 0 8

/-- The decoder of command words. R91: 'A decoder of command words is total: every 10-bit value selects
exactly one row.' -/
def decode (w : CmdWord) : Instr :=
  if opField w = 0b00#2 then .beginCmd (dataField w)
  else if opField w = 0b01#2 then .charCmd (dataField w)
  else if opField w = 0b10#2 then .endCmd (dataField w)
  else .rsvdCmd (dataField w)

/-- Why a number is no command word. -/
inductive DecodeError where
  /-- The number needs more than the ten bits of a command word (R101). Safe: nothing is run. -/
  | wordTooWide
deriving DecidableEq, Repr

/-- The decoder over numbers of any size: a number of more than ten bits is no command word (R101: 'Every
command is exactly one 10-bit word'). DESIGN CHOICE, safe: log entry 17. -/
def decodeNat (v : Nat) : Except DecodeError Instr :=
  if v < 1024 then .ok (decode (BitVec.ofNat 10 v)) else .error .wordTooWide

/-- What the decoder reads from an instruction whose `nbits` low bits are those of `w`, numbered as
spec/opcode_table.json numbers them; the bits above are 0. The whole instruction is one word (R101). -/
def decodeTableWord (nbits w : Nat) : Option Instr :=
  match decodeNat (w % 2 ^ nbits) with
  | .ok i => some i
  | .error _ => none

/-- The encoder, `{op, data}` (R90, R91). -/
def encode : Instr → CmdWord
  | .beginCmd d => 0b00#2 ++ d
  | .charCmd c => 0b01#2 ++ c
  | .endCmd d => 0b10#2 ++ d
  | .rsvdCmd d => 0b11#2 ++ d

/-- The mnemonic of a command as spec/opcode_table.json has it. -/
def mnemonicOf : Instr → String
  | .beginCmd _ => "BEGIN"
  | .charCmd _ => "CHAR"
  | .endCmd _ => "END"
  | .rsvdCmd _ => "RSVD"

/-- The `data` field a command carries. -/
def dataOf : Instr → Data
  | .beginCmd d => d
  | .charCmd c => c
  | .endCmd d => d
  | .rsvdCmd d => d

/-! ### ROM words, R97 and R98 -/

/-- The length bit `n7`, bit 14 (R97). -/
def romN7 (w : RomWord) : Bool :=
  w.getLsbD 14

/-- `L(W) = 6 + W[14]` (R98). -/
def romLen (w : RomWord) : Nat :=
  6 + (romN7 w).toNat

/-- The field `f_k`, bits `[2k+1:2k]`: the width of segment k minus 1 (R97). -/
def romField (w : RomWord) (k : Nat) : BitVec 2 :=
  w.extractLsb' (2 * k) 2

/-- `width_k(W) = zext(W[2k+1:2k]) + 1` (R98). -/
def romWidth (w : RomWord) (k : Nat) : Nat :=
  (romField w k).toNat + 1

/-- The widths of a word's segments, segment 0 first: as many as its declared length (R98). -/
def romWidths (w : RomWord) : List Nat :=
  (List.range (romLen w)).map (romWidth w)

/-- `sum over k of (width_k - 1) << 2k` over the widths listed from segment k on (R97). -/
def packWidths : List Nat → Nat → Nat
  | [], _ => 0
  | x :: xs, k => ((x - 1) <<< (2 * k)) + packWidths xs (k + 1)

/-- The ROM word of a list of widths: the packed widths plus `n7 << 14`, n7 for a seven-segment symbol (R97). -/
def romWordOf (widths : List Nat) : RomWord :=
  BitVec.ofNat 15 (packWidths widths 0 + (if widths.length = 7 then 1 else 0) <<< 14)

/-! ### Segment words, R95 -/

/-- `{last, bar, width}`: last is bit 4, bar bit 3, width bits `[2:0]` (R95). -/
def packSegment (last bar : Bool) (width : BitVec 3) : SegWord :=
  BitVec.ofBool last ++ (BitVec.ofBool bar ++ width)

/-- The `width` field of a segment word (R95). -/
def segWordWidth (w : SegWord) : Nat :=
  (w.extractLsb' 0 3).toNat

/-- The `bar` field of a segment word (R95). -/
def segWordBar (w : SegWord) : Bool :=
  w.getLsbD 3

/-- The `last` field of a segment word (R95). -/
def segWordLast (w : SegWord) : Bool :=
  w.getLsbD 4

end Sys2Proof
end

