-- ==== Sys2Proof/Config.lean ====
section
/-! DEFINITION. What an instance of the block is built with (00_scope.md R6, R7), and the one value the spec leaves free. -/

namespace Sys2Proof

/-- The parameters of an instance: `MAX_LEN` (R6) and `SYMBOL_ROM` (R7).
`rom` lists the words of addresses 0, 1, 2, ... in order. Address 107 is unspecified (20_memory.md
R61), so it may be listed or left out. DESIGN CHOICE, safe: log entries 3 and 7. -/
structure Config where
  maxLen : Nat
  rom : List RomWord
deriving DecidableEq, Repr

/-- The contents of ROM location 107 where the configuration does not list them: 'reserved; contents
unspecified' (R61), 'any value' (93_implementation_defined.md U3). A free value: nothing constrains it.
DESIGN CHOICE, safe: log entry 7. -/
opaque Config.freeRom107 : RomWord

end Sys2Proof
end

