-- ==== Sys2Proof/Machine/Params.lean ====
section
/-! DEFINITION. The fixed constants of 00_scope.md R8 and the derived widths of R9. -/

namespace Sys2Proof.Machine

/-- `CHAR_LO` (R8). -/
def charLo : Nat := 32

/-- `CHAR_HI` (R8; 90_conflicts.md C3). -/
def charHi : Nat := 126

/-- `START_B` (R8). -/
def startB : SymIdx := 104#7

/-- `STOP` (R8). -/
def stopSym : SymIdx := 106#7

/-- `CK_SEED` (R8). -/
def ckSeed : Nat := 104

/-- `CK_MOD` (R8). -/
def ckMod : Nat := 103

/-- `SYM_WIDTH`, in modules (R8). -/
def symWidth : Nat := 11

/-- `STOP_WIDTH`, in modules (R8). -/
def stopWidth : Nat := 13

/-- The default of `MAX_LEN` (R6). -/
def defaultMaxLen : Nat := 255

/-- `bits(v)`: the number of bits needed to hold 0..v (R9). -/
def bits (v : Nat) : Nat :=
  if v = 0 then 0 else Nat.log2 v + 1

/-- `LW`, the width of `len` and `err_pos` (R9). -/
def lw (cfg : Config) : Nat := bits cfg.maxLen

/-- `SPW`, the width of `sym_ptr` (R9). -/
def spw (cfg : Config) : Nat := bits (cfg.maxLen + 2)

/-- `TSW`, the width of `total_segs` (R9). -/
def tsw (cfg : Config) : Nat := bits (6 * cfg.maxLen + 19)

/-- `TMW`, the width of `total_modules` (R9). -/
def tmw (cfg : Config) : Nat := bits (11 * cfg.maxLen + 35)

end Sys2Proof.Machine
end

