-- ==== Sys2Proof/Machine/Rom.lean ====
section
/-! DEFINITION. The symbol-table ROM: its reference contents (20_memory.md R63), the read primitive (R64) and the checks of R62. -/

namespace Sys2Proof.Machine

/-! ### The reference contents, R63

PRESUMED, unsafe (log entry 14): R63 marks this table as general knowledge of Code 128, not in the source. -/

/-- Addresses 0..11 of 20_memory.md R63. -/
def referenceRomPart0 : List RomWord :=
  [0x0551#15, 0x0515#15, 0x0155#15, 0x0944#15, 0x0584#15, 0x0548#15,
   0x0854#15, 0x0494#15, 0x0458#15, 0x0845#15, 0x0485#15, 0x0449#15]

/-- Addresses 12..23 of 20_memory.md R63. -/
def referenceRomPart1 : List RomWord :=
  [0x0650#15, 0x0614#15, 0x0254#15, 0x0560#15, 0x0524#15, 0x0164#15,
   0x0065#15, 0x0605#15, 0x0245#15, 0x0461#15, 0x0425#15, 0x0212#15]

/-- Addresses 24..35 of 20_memory.md R63. -/
def referenceRomPart2 : List RomWord :=
  [0x0542#15, 0x0506#15, 0x0146#15, 0x0452#15, 0x0416#15, 0x0056#15,
   0x0911#15, 0x0191#15, 0x0119#15, 0x0980#15, 0x0908#15, 0x0188#15]

/-- Addresses 36..47 of 20_memory.md R63. -/
def referenceRomPart3 : List RomWord :=
  [0x0890#15, 0x0818#15, 0x0098#15, 0x0881#15, 0x0809#15, 0x0089#15,
   0x0A10#15, 0x0290#15, 0x0218#15, 0x0920#15, 0x01A0#15, 0x0128#15]

/-- Addresses 48..59 of 20_memory.md R63. -/
def referenceRomPart4 : List RomWord :=
  [0x0122#15, 0x0281#15, 0x0209#15, 0x0821#15, 0x00A1#15, 0x0221#15,
   0x0902#15, 0x0182#15, 0x010A#15, 0x0812#15, 0x0092#15, 0x001A#15]

/-- Addresses 60..71 of 20_memory.md R63. -/
def referenceRomPart5 : List RomWord :=
  [0x0032#15, 0x00C5#15, 0x000B#15, 0x0D40#15, 0x05C0#15, 0x0D04#15,
   0x01C4#15, 0x050C#15, 0x014C#15, 0x0C50#15, 0x04D0#15, 0x0C14#15]

/-- Addresses 72..83 of 20_memory.md R63. -/
def referenceRomPart6 : List RomWord :=
  [0x00D4#15, 0x041C#15, 0x005C#15, 0x004D#15, 0x0C05#15, 0x0023#15,
   0x040D#15, 0x0038#15, 0x0740#15, 0x0704#15, 0x0344#15, 0x0470#15]

/-- Addresses 84..95 of 20_memory.md R63. -/
def referenceRomPart7 : List RomWord :=
  [0x0434#15, 0x0074#15, 0x0443#15, 0x0407#15, 0x0047#15, 0x0311#15,
   0x0131#15, 0x0113#15, 0x0B00#15, 0x0380#15, 0x0308#15, 0x0830#15]

/-- Addresses 96..106 of 20_memory.md R63. -/
def referenceRomPart8 : List RomWord :=
  [0x00B0#15, 0x0803#15, 0x0083#15, 0x0320#15, 0x0230#15, 0x0302#15,
   0x0203#15, 0x04C1#15, 0x0C41#15, 0x0641#15, 0x5029#15]

/-- R63: the words of addresses 0..106. Address 107 is unspecified (R61) and is not listed. -/
def referenceRom : List RomWord :=
  referenceRomPart0 ++ referenceRomPart1 ++ referenceRomPart2 ++ referenceRomPart3 ++ referenceRomPart4 ++ referenceRomPart5 ++ referenceRomPart6 ++ referenceRomPart7 ++ referenceRomPart8

/-- The parameters this hardware takes by default: `MAX_LEN = 255` (R6) and the contents of R63. -/
def referenceConfig : Config :=
  ⟨defaultMaxLen, referenceRom⟩

/-! ### Reading, R60 and R64 -/

/-- The contents of address `a`: the listed word; for address 107, if it is not listed, the free value
(R61, U3); nothing for the addresses above 107, which are not implemented (R60). -/
def romWord (cfg : Config) (a : Nat) : Option RomWord :=
  if a < 107 then cfg.rom[a]?
  else if a = 107 then some (cfg.rom[107]?.getD Config.freeRom107)
  else none

/-! ### Well-formedness, R62 -/

/-- WF1 for one word: `n7 = 0`, bits `[13:12]` 0, and the six widths sum to 11. -/
def symbolOk (w : RomWord) : Bool :=
  !romN7 w && romField w 6 == 0#2 && (romWidths w).sum == symWidth

/-- WF2 for one word: `n7 = 1`, the seven widths sum to 13, and the seventh is 2. -/
def stopOk (w : RomWord) : Bool :=
  romN7 w && (romWidths w).sum == stopWidth && romWidth w 6 == 2

/-- The lists are pairwise distinct. -/
def allDistinct : List (List Nat) → Bool
  | [] => true
  | x :: xs => xs.all (fun y => x != y) && allDistinct xs

/-- Addresses 0..106 hold a word, and at most address 107 is listed beside them (R60). -/
def romShapeOk (rom : List RomWord) : Bool :=
  rom.length == 107 || rom.length == 108

/-- WF1: every address in 0..105 holds a six-segment symbol of 11 modules. -/
def wf1 (rom : List RomWord) : Bool :=
  (rom.take 106).all symbolOk

/-- WF2: address 106 holds a seven-segment symbol of 13 modules that ends in a width of 2. -/
def wf2 (rom : List RomWord) : Bool :=
  match rom[106]? with
  | some w => stopOk w
  | none => false

/-- WF4: the width sequences of addresses 0..102 are pairwise distinct. -/
def wf4 (rom : List RomWord) : Bool :=
  allDistinct ((rom.take 103).map romWidths)

/-- Every check of R62 and `MAX_LEN >= 1` (R6). WF3 is the type `RomWord`, fifteen bits; WF5 leaves address
107 unconstrained. -/
def configOk (cfg : Config) : Bool :=
  decide (1 ≤ cfg.maxLen) && romShapeOk cfg.rom && wf1 cfg.rom && wf2 cfg.rom && wf4 cfg.rom

end Sys2Proof.Machine
end

