-- ==== Sys2Proof/WellFormed.lean ====
section
/-! DEFINITION. What is well formed: a command (always: 30_encoding.md R91, R94) and a configuration (20_memory.md R62). -/

namespace Sys2Proof

/-- Every command is well formed: all 1024 words decode (R91), the ignored bits of BEGIN and END may hold
anything (R92), and a CHAR outside 32..126 'is a well-formed encoding with a rejected operand value' (R94). -/
def Instr.wellFormed : Instr → Bool
  | .beginCmd _ => true
  | .charCmd _ => true
  | .endCmd _ => true
  | .rsvdCmd _ => true

/-- The configuration passes every check of R62, and `MAX_LEN` is at least 1 (R6). 'A model refuses a
configuration that fails any of the following checks.' -/
def Config.wellFormed (cfg : Config) : Bool :=
  Machine.configOk cfg

end Sys2Proof
end

