-- ==== Sys2Proof/Machine/State.lean ====
section
/-! DEFINITION. The state of the machine as plain data, the reasons a step can stop, and the state right after reset. -/

namespace Sys2Proof.Machine

/-- The values of the 3-bit register `state` (10_state.md R25, 30_encoding.md R99), the three unused
encodings among them. -/
inductive Ctl where
  | idle
  | load
  | emit
  | done
  | error
  | unused5
  | unused6
  | unused7
deriving DecidableEq, Repr

/-- The values of the 3-bit register `err_code` (30_encoding.md R100), the three that are never produced
among them. -/
inductive ErrCode where
  | none
  | invalidChar
  | lengthOverflow
  | protocol
  | illegalCmd
  | unused5
  | unused6
  | unused7
deriving DecidableEq, Repr

/-- The levels of the input ports at one rising edge of `clk` (10_state.md R20, R21, R22). -/
structure Pins where
  rst : Bool
  cmdValid : Bool
  cmdWord : CmdWord
  segReady : Bool
deriving DecidableEq, Repr

/-- Why the machine stops. No state that a run from reset reaches raises one of these (10_state.md R34);
the block's own errors are next states (60_exceptions.md R226). All are safe: the model stops where the
spec gives no value. -/
inductive Fault where
  /-- `bufRead`, so `segOut`: a read of a BUF entry not written since the last reset or BEGIN (20_memory.md R67). Safe. -/
  | bufUnwritten
  /-- `bufRead` and `storeChar`: a BUF address outside 0..MAX_LEN-1 (R66). Safe. -/
  | bufAddress
  /-- `romRead`, so `segOut`: a ROM address that is not implemented, 108..127 (R60). Safe. -/
  | romAddress
  /-- `segOut`: `seg_ptr` is not below the symbol's declared length, so R98 gives the segment no width. Safe. -/
  | segmentField
  /-- Any edge without reset: `state` holds an unused encoding (30_encoding.md R99: 'stuck'). Safe. -/
  | stuckState
  /-- Any edge without reset: `err_code` holds a value that is never produced (R100, U11: 'stuck'). Safe. -/
  | stuckErrCode
deriving DecidableEq, Repr

/-- Why the machine gives no answer. -/
inductive Refusal where
  /-- `exec`: an instruction that has no meaning yet. No arm is left that raises it. Safe. -/
  | notModelled (mnemonic : String)
  /-- `clockEdge`: the configuration fails a check of 20_memory.md R62, and 'a model refuses that configuration
  before any event' (60_exceptions.md R225). Safe. -/
  | illFormedConfig
deriving DecidableEq, Repr

/-- The state of one instance of the block, with the host's and the sink's part beside it.
`len`, `err_pos` and `sym_ptr` have widths that follow from MAX_LEN (00_scope.md R9), so they are held as
the naturals they stand for (DESIGN CHOICE, unsafe outside Inv: log entry 4). -/
structure State where
  /-- The parameters the instance is built with; no event writes them (R31, R60). -/
  cfg : Config
  /-- `state` (R25). -/
  state : Ctl
  /-- `len` (R26). -/
  len : Nat
  /-- `acc` (R27). -/
  acc : BitVec 7
  /-- `ck_idx` (R28). -/
  ckIdx : SymIdx
  /-- `err_code` (R29). -/
  errCode : ErrCode
  /-- `err_pos` (R29). -/
  errPos : Nat
  /-- `err_char` (R29). -/
  errChar : Data
  /-- `BUF` (R30): the entries that hold a value, by rising address (20_memory.md R67). -/
  buf : List (Nat × SymIdx)
  /-- `sym_ptr` (R32). -/
  symPtr : Nat
  /-- `seg_ptr` (R32). -/
  segPtr : BitVec 3
  /-- The host and the sink: the input ports at the coming edges, nearest first (00_scope.md R11; DESIGN CHOICE, safe: log entry 1). -/
  inputs : List Pins
  /-- The sink: the segment words it has taken, oldest first (R13 `emit`; DESIGN CHOICE, safe: log entry 10). -/
  delivered : List SegWord
deriving DecidableEq, Repr

/-- What a step answers. -/
abbrev Out := Host.Outcome State Fault Refusal

/-- The state right after a reset event (10_state.md R37, 70_reset_and_hazards.md R250, R252) of an instance
built with `cfg`, with no input sample listed and nothing delivered. -/
def State.resetWith (cfg : Config) : State :=
  { cfg := cfg, state := .idle, len := 0, acc := 1#7, ckIdx := 0#7, errCode := .none, errPos := 0,
    errChar := 0#8, buf := [], symPtr := 0, segPtr := 0#3, inputs := [], delivered := [] }

/-- The state right after reset, with the parameters this hardware takes by default (R6, R7). -/
def State.reset : State :=
  State.resetWith referenceConfig

end Sys2Proof.Machine
end

