-- ==== Sys2Proof/Machine/Ops.lean ====
section
/-! DEFINITION. The named operations over the storage arrays and the registers: BUF, ROM, error entry and the ways out of ERROR, and the register writes of each event. -/

namespace Sys2Proof.Machine

/-! ### BUF: a list of (address, entry) pairs, addresses strictly rising -/

/-- The contents of BUF: the entries that hold a value (20_memory.md R66, R67). -/
abbrev Memory := List (Nat × SymIdx)

/-- The canonical form: addresses strictly rising. -/
def Memory.wf : Memory → Bool
  | [] => true
  | [_] => true
  | x :: y :: rest => decide (x.1 < y.1) && Memory.wf (y :: rest)

/-- The entry at an address, if one is listed. -/
def Memory.get : Memory → Nat → Option SymIdx
  | [], _ => none
  | (a, v) :: rest, k => if a = k then some v else Memory.get rest k

/-- The list with the entry at `k` holding `v`, in canonical form. -/
def Memory.put : Memory → Nat → SymIdx → Memory
  | [], k, v => [(k, v)]
  | (a, u) :: rest, k, v =>
    if k < a then (k, v) :: (a, u) :: rest
    else if k = a then (k, v) :: rest
    else (a, u) :: Memory.put rest k v

/-- `MemRead(BUF:k, 1)` (R66). An unlisted entry holds no value, and its read is a fault (R67). -/
def bufRead (s : State) (k : Nat) : Except Fault SymIdx :=
  if k < s.cfg.maxLen then
    match Memory.get s.buf k with
    | some v => .ok v
    | none => .error .bufUnwritten
  else .error .bufAddress

/-- `MemRead(ROM:a, 1)` (R64). -/
def romRead (s : State) (a : SymIdx) : Except Fault RomWord :=
  match romWord s.cfg a.toNat with
  | some w => .ok w
  | none => .error .romAddress

/-! ### The controller's unused values -/

/-- `state` holds one of the encodings R99 leaves unused. -/
def Ctl.unused : Ctl → Bool
  | .unused5 => true
  | .unused6 => true
  | .unused7 => true
  | _ => false

/-- `err_code` holds one of the values R100 never produces. -/
def ErrCode.unused : ErrCode → Bool
  | .unused5 => true
  | .unused6 => true
  | .unused7 => true
  | _ => false

/-- Why the block is stuck, if it is (30_encoding.md R99; 93_implementation_defined.md U10, U11; DEDUCED, unsafe: log entry 8). -/
def stuckFault (s : State) : Option Fault :=
  if s.state.unused then some .stuckState
  else if s.errCode.unused then some .stuckErrCode
  else none

/-! ### Errors -/

/-- Taking an error: `raise Err(code, pos, char)` (60_exceptions.md R226). No other register changes. -/
def raiseErr (code : ErrCode) (pos : Nat) (char : Data) (s : State) : State :=
  { s with state := .error, errCode := code, errPos := pos, errChar := char }

/-- BEGIN's register writes (40_commands.md R121), which are also the way out of ERROR that a command has
(60_exceptions.md R231). BUF is not written, but its entries hold no value for the new transaction, so
none is listed (20_memory.md R67; DEDUCED, safe: log entry 6). -/
def openTransaction (s : State) : State :=
  { s with
    state := .load, len := 0, acc := 1#7, ckIdx := 0#7, errCode := .none, errPos := 0, errChar := 0#8,
    buf := [], symPtr := 0, segPtr := 0#3 }

/-- The reset event (70_reset_and_hazards.md R250), the other way out of ERROR: every register takes its
reset value (10_state.md R37) and every BUF entry counts as unwritten. The ROM and MAX_LEN, the input
ports and what the sink has taken are unaffected (DESIGN CHOICE, safe: log entry 10). -/
def resetRegisters (s : State) : State :=
  { s with
    state := .idle, len := 0, acc := 1#7, ckIdx := 0#7, errCode := .none, errPos := 0, errChar := 0#8,
    buf := [], symPtr := 0, segPtr := 0#3 }

/-! ### The other register writes -/

/-- END's register writes in LOAD (40_commands.md R123, 41_checksum.md R154). -/
def closeTransaction (s : State) : State :=
  { s with ckIdx := s.acc, state := .emit, symPtr := 0, segPtr := 0#3 }

/-- An accepted CHAR's register writes, with the symbol index and the new accumulator (R122). -/
def appendSymbol (idx : SymIdx) (acc : BitVec 7) (s : State) : State :=
  { s with buf := Memory.put s.buf s.len idx, acc := acc, len := s.len + 1 }

/-- `emit(w)`: the sink takes a segment word (00_scope.md R13). -/
def emitWord (w : SegWord) (s : State) : State :=
  { s with delivered := s.delivered ++ [w] }

/-- `(sym_ptr, seg_ptr) <- (a, b)` (R13). -/
def setPointers (a : Nat) (b : BitVec 3) (s : State) : State :=
  { s with symPtr := a, segPtr := b }

/-- `state <- DONE` (43_expander.md R190). -/
def finish (s : State) : State :=
  { s with state := .done }

/-! ### The input ports -/

/-- No reset, no command presented, no segment accepted. -/
def idlePins : Pins :=
  { rst := false, cmdValid := false, cmdWord := 0#10, segReady := false }

/-- The levels of the input ports at the next edge. Past the end of the list host and sink do nothing.
DESIGN CHOICE, safe: log entry 1. -/
def pins (s : State) : Pins :=
  match s.inputs with
  | p :: _ => p
  | [] => idlePins

/-- The edge has passed: its input sample is used up. -/
def nextEdge (s : State) : State :=
  { s with inputs := s.inputs.tail }

/-- The host presents a command word at the next edge (10_state.md R21), with `rst` and `seg_ready` low. The sample
takes the place of the one that was listed for that edge, if there was one; the later ones stay. DESIGN CHOICE, safe:
log entry 2. -/
def present (w : CmdWord) (s : State) : State :=
  { s with inputs := { rst := false, cmdValid := true, cmdWord := w, segReady := false } :: s.inputs.tail }

end Sys2Proof.Machine
end

