-- ==== Sys2Proof/Machine/Operands.lean ====
section
/-! DEFINITION. Operand assembly for CHAR (30_encoding.md R93). No other command has an operand. -/

namespace Sys2Proof.Machine

/-- `c = zext(cmd_word[7:0])`, a natural in 0..255, never sign-extended (R93). -/
def charCode (c : Data) : Nat :=
  c.toNat

/-- `32 <= c <= 126` (R93, 40_commands.md R122). -/
def charAccepted (c : Data) : Bool :=
  decide (charLo ≤ charCode c) && decide (charCode c ≤ charHi)

/-- `idx = c - 32`, held in 7 bits (R93). -/
def charIndex (c : Data) : SymIdx :=
  BitVec.ofNat 7 (charCode c - charLo)

/-- The weight of the next character: its 1-based position, `len + 1` (R93). -/
def charWeight (s : State) : Nat :=
  s.len + 1

end Sys2Proof.Machine
end

