-- ==== Sys2Proof/Machine/Checksum.lean ====
section
/-! DEFINITION. The modular checksum accumulator (41_checksum.md). -/

namespace Sys2Proof.Machine

/-- `(acc + idx * weight) mod 103`, exact on the naturals, then held in 7 bits (R152). -/
def accUpdate (acc : BitVec 7) (idx : SymIdx) (weight : Nat) : BitVec 7 :=
  BitVec.ofNat 7 ((acc.toNat + idx.toNat * weight) % ckMod)

end Sys2Proof.Machine
end

