-- ==== Sys2Proof/Machine/Flags.lean ====
section
/-! DEFINITION. The block has no condition codes (10_state.md R34); its flags are the handshake outputs, functions of `state`, and the flag bits of a segment word. -/

namespace Sys2Proof.Machine

/-- `cmd_ready = (state != EMIT)` (10_state.md R21). -/
def cmdReady (s : State) : Bool :=
  s.state != .emit

/-- `seg_valid = (state == EMIT)` (10_state.md R22). -/
def segValid (s : State) : Bool :=
  s.state == .emit

/-- `bar = (seg_ptr[0] == 0)` (43_expander.md R190). -/
def isBar (segPtr : BitVec 3) : Bool :=
  !segPtr.getLsbD 0

/-- The segment is the final one of its symbol: `seg_ptr == L - 1` (42_concatenator.md R173). -/
def endsSymbol (s : State) (w : RomWord) : Bool :=
  s.segPtr.toNat == romLen w - 1

/-- `last = (sym_ptr == len + 2) and (seg_ptr == L - 1)` (43_expander.md R190). -/
def isLast (s : State) (w : RomWord) : Bool :=
  s.symPtr == s.len + 2 && endsSymbol s w

/-- The level request a platform may wire from `status_state`, in the example of 60_exceptions.md R232:
'state is DONE or ERROR'. It is no output of the block. -/
def platformRequest (s : State) : Bool :=
  s.state == .done || s.state == .error

end Sys2Proof.Machine
end

