-- ==== Sys2Proof/Machine/Commands.lean ====
section
/-! DEFINITION. The four commands (40_commands.md), each over the shared arms of the dispatch rule R120. -/

namespace Sys2Proof.Machine

/-! ### The arms of R120, in its order, which is the error priority of 60_exceptions.md R228 -/

/-- A command presented to the block. In EMIT it is not accepted: no transfer happens and it waits
(10_state.md R21, 70_reset_and_hazards.md R256; DEDUCED, safe: log entry 9). A stuck block makes no step (30_encoding.md R99). -/
def onTransfer (s : State) (arm : Out) : Out :=
  match stuckFault s with
  | some f => .fault f
  | none => if cmdReady s then arm else .next s

/-- In ERROR a command other than BEGIN is accepted and discarded (R120, 60_exceptions.md R230). -/
def unlessError (s : State) (arm : Out) : Out :=
  if s.state = .error then .next s else arm

/-- With no transaction open the command raises ProtocolError (R120, 60_exceptions.md R223). -/
def inTransaction (s : State) (d : Data) (arm : Out) : Out :=
  if s.state = .idle ∨ s.state = .done then .next (raiseErr .protocol s.len d s) else arm

/-- CHAR in LOAD (R122): LengthOverflow is tested first, then InvalidCharacter. `MemWrite(BUF:len, 1, idx)`
needs an address below MAX_LEN (20_memory.md R66); only a `len` above MAX_LEN, which no run reaches, has none
(DEDUCED, safe: log entry 13). -/
def storeChar (c : Data) (s : State) : Out :=
  if s.len = s.cfg.maxLen then .next (raiseErr .lengthOverflow s.len c s)
  else if charAccepted c then
    if s.len < s.cfg.maxLen then
      .next (appendSymbol (charIndex c) (accUpdate s.acc (charIndex c) (charWeight s)) s)
    else .fault .bufAddress
  else .next (raiseErr .invalidChar s.len c s)

/-! ### The meanings -/

/-- BEGIN (R121): opens a transaction. `data` is ignored (30_encoding.md R92). -/
def execBegin (_data : Data) (s : State) : Out :=
  onTransfer s (.next (openTransaction s))

/-- CHAR c (R122): validates a character, stores its symbol index and accumulates the checksum. -/
def execChar (c : Data) (s : State) : Out :=
  onTransfer s (unlessError s (inTransaction s c (storeChar c s)))

/-- END (R123): closes the input and starts the segment stream. `data` is recorded only if END raises
ProtocolError. -/
def execEnd (data : Data) (s : State) : Out :=
  onTransfer s (unlessError s (inTransaction s data (.next (closeTransaction s))))

/-- RSVD d (R124): raises IllegalCommand. -/
def execRsvd (d : Data) (s : State) : Out :=
  onTransfer s (unlessError s (.next (raiseErr .illegalCmd s.len d s)))

end Sys2Proof.Machine
end

