-- ==== Sys2Proof/Machine/Dispatch.lean ====
section
/-! DEFINITION. What each command does: one arm per constructor of Instr. -/

namespace Sys2Proof.Machine

def exec (i : Instr) (s : State) : Host.Outcome State Fault Refusal :=
  match i with
  | .beginCmd data => Sys2Proof.Machine.execBegin data s
  | .charCmd c => Sys2Proof.Machine.execChar c s
  | .endCmd data => Sys2Proof.Machine.execEnd data s
  | .rsvdCmd d => Sys2Proof.Machine.execRsvd d s

end Sys2Proof.Machine
end

