-- ==== Sys2Proof/Machine/Concatenator.lean ====
section
/-! DEFINITION. The START/data/checksum/STOP concatenator (42_concatenator.md): which ROM word feeds the expander. -/

namespace Sys2Proof.Machine

/-- The ROM address at position `k` of the pattern sequence, by the selection of R171. R171 gives every
position above `len + 1` the STOP symbol; only `len + 2` is reached (DEDUCED, unsafe: log entry 12). -/
def patternAt (s : State) (k : Nat) : Except Fault SymIdx :=
  if k = 0 then .ok startB
  else if k ≤ s.len then bufRead s (k - 1)
  else if k = s.len + 1 then .ok s.ckIdx
  else .ok stopSym

/-- The symbol word at position `k`: `MemRead(ROM:P[k], 1)` (R171). -/
def symbolAt (s : State) (k : Nat) : Except Fault RomWord :=
  match patternAt s k with
  | .ok a => romRead s a
  | .error f => .error f

/-- The current symbol word W (R171). -/
def currentSymbol (s : State) : Except Fault RomWord :=
  symbolAt s s.symPtr

end Sys2Proof.Machine
end

