-- ==== Sys2Proof/Machine/Expander.lean ====
section
/-! DEFINITION. The module-width expander and the segment transfer SEGOUT (43_expander.md R190, 42_concatenator.md R173). -/

namespace Sys2Proof.Machine

/-- `zext_3(W[2*seg_ptr+1 : 2*seg_ptr]) + 1` (R190). -/
def segmentWidth (w : RomWord) (segPtr : BitVec 3) : BitVec 3 :=
  (romField w segPtr.toNat).setWidth 3 + 1#3

/-- `seg_word = {last, bar, width}` for the current symbol word (R190). -/
def segmentWord (s : State) (w : RomWord) : SegWord :=
  packSegment (isLast s w) (isBar s.segPtr) (segmentWidth w s.segPtr)

/-- The pointers and, on the last segment, the state after a segment transfer (R173, R190). -/
def advance (s : State) (w : RomWord) : State :=
  if isLast s w then finish (setPointers 0 0#3 s)
  else if endsSymbol s w then setPointers (s.symPtr + 1) 0#3 s
  else setPointers s.symPtr (s.segPtr + 1#3) s

/-- The current symbol word, where `seg_ptr` is below its declared length. R98 defines the width of segment
k only for `0 <= k < L(W)`; no run reaches another (DEDUCED, safe: log entry 11). -/
def currentSegment (s : State) : Except Fault RomWord :=
  match currentSymbol s with
  | .ok w => if s.segPtr.toNat < romLen w then .ok w else .error .segmentField
  | .error f => .error f

/-- SEGOUT: the sink takes the current segment word, and the block advances (R190). It is enabled in EMIT. -/
def segOut (s : State) : Out :=
  match currentSegment s with
  | .ok w => .next (emitWord (segmentWord s w) (advance s w))
  | .error f => .fault f

end Sys2Proof.Machine
end

