-- ==== Sys2Proof/Machine/Ports.lean ====
section
/-! DEFINITION. The output ports: the current segment and the status ports (10_state.md R22, R23), with the status encodings of 30_encoding.md R99 and R100. -/

namespace Sys2Proof.Machine

/-- The encoding of `state` (R99). -/
def ctlBits : Ctl → BitVec 3
  | .idle => 0b000#3
  | .load => 0b001#3
  | .emit => 0b010#3
  | .done => 0b011#3
  | .error => 0b100#3
  | .unused5 => 0b101#3
  | .unused6 => 0b110#3
  | .unused7 => 0b111#3

/-- The encoding of `err_code` (R100). -/
def errBits : ErrCode → BitVec 3
  | .none => 0#3
  | .invalidChar => 1#3
  | .lengthOverflow => 2#3
  | .protocol => 3#3
  | .illegalCmd => 4#3
  | .unused5 => 5#3
  | .unused6 => 6#3
  | .unused7 => 7#3

/-- `seg_word`: in EMIT the current segment, else 0 (R22). In an EMIT state that no run reaches the current
symbol may be unreadable; the port then has no value (DEDUCED, safe: log entry 20). -/
def segWordPort (s : State) : Except Fault SegWord :=
  if segValid s then
    match currentSegment s with
    | .ok w => .ok (segmentWord s w)
    | .error f => .error f
  else .ok 0#5

/-- `status_state` (R23). -/
def statusState (s : State) : BitVec 3 := ctlBits s.state

/-- `status_err_code` (R23). -/
def statusErrCode (s : State) : BitVec 3 := errBits s.errCode

/-- `status_err_pos`, LW bits (R23; DESIGN CHOICE, unsafe outside Inv: log entry 4). -/
def statusErrPos (s : State) : BitVec (lw s.cfg) := BitVec.ofNat _ s.errPos

/-- `status_err_char` (R23). -/
def statusErrChar (s : State) : BitVec 8 := s.errChar

/-- `status_len`, LW bits (R23; DESIGN CHOICE, unsafe outside Inv: log entry 4). -/
def statusLen (s : State) : BitVec (lw s.cfg) := BitVec.ofNat _ s.len

/-- `status_ck_idx` (R23). -/
def statusCkIdx (s : State) : BitVec 7 := s.ckIdx

/-- `total_segs = 6*len + 19`, TSW bits, at all times (R23, 92_eei_decisions.md D39). -/
def totalSegs (s : State) : BitVec (tsw s.cfg) := BitVec.ofNat _ (6 * s.len + 19)

/-- `total_modules = 11*len + 35`, TMW bits, at all times (R23, D39). -/
def totalModules (s : State) : BitVec (tmw s.cfg) := BitVec.ofNat _ (11 * s.len + 35)

end Sys2Proof.Machine
end

