-- ==== Sys2Proof/Machine/Edge.lean ====
section
/-! DEFINITION. One rising edge of `clk`: a reset event, a command transfer, a segment transfer or none of them (10_state.md R20 to R22, 60_exceptions.md R229). -/

namespace Sys2Proof.Machine

/-- The event of the next edge. Reset wins over every transfer and acts 'in any state' (R20, R250; DEDUCED, unsafe:
log entry 8). A command transfer runs the command whose word is present at this edge (R21, R260). In EMIT the sink may
take the current segment (R22). At any other edge no register changes (R21, R237, R257). -/
def edgeEvent (s : State) : Out :=
  if (pins s).rst then .next (resetRegisters (nextEdge s))
  else
    match stuckFault s with
    | some f => .fault f
    | none =>
      if (pins s).cmdValid && cmdReady s then exec (decode (pins s).cmdWord) (nextEdge s)
      else if segValid s && (pins s).segReady then segOut (nextEdge s)
      else .next (nextEdge s)

/-- One rising edge of `clk`. A configuration that fails 20_memory.md R62 is refused before any event
(60_exceptions.md R225; DESIGN CHOICE, safe: log entry 3). -/
def clockEdge (s : State) : Out :=
  if s.cfg.wellFormed then edgeEvent s else .refused .illFormedConfig

end Sys2Proof.Machine
end

