-- ==== Sys2Proof/Machine/Step.lean ====
section
/-! DEFINITION. One step of the machine, and how the host of the pipeline places one command. -/

namespace Sys2Proof.Machine

/-- One step: one rising edge of `clk` (10_state.md R20). -/
def step (s : State) : Host.Outcome State Fault Refusal :=
  Sys2Proof.Machine.clockEdge s

/-- The block fetches no instruction (20_memory.md R69, R74): the host presents command words on the command
port. So the command word is placed on that port at the next edge, in the place of the sample that was listed
for that edge (DESIGN CHOICE, safe: log entry 2). -/
def State.withFetchWord (s : State) (nbits w : Nat) : State :=
  Sys2Proof.Machine.present (BitVec.ofNat 10 (w % 2 ^ nbits)) s

end Sys2Proof.Machine
end

