-- ==== Sys2Proof/Machine/Assembler.lean ====
section
/-! DEFINITION. The assembler syntax of command streams (30_encoding.md R102) and its pseudo-instructions (R103). A source text is a list of characters, read by their codes. What R102 leaves open is decided by DESIGN CHOICE, unsafe: log entry 15. -/

namespace Sys2Proof.Machine

/-- A statement of the syntax (R102, R103). The operand of BEGIN and END may be omitted. -/
inductive Stmt where
  | beginStmt (n : Option Nat)
  | charStmt (n : Nat)
  | endStmt (n : Option Nat)
  | rsvdStmt (n : Nat)
  | strStmt (bytes : List Data)
  | encodeStmt (bytes : List Data)
deriving DecidableEq, Repr

/-- Why the assembler refuses a line. Nothing is run, so every one of them is safe. -/
inductive AsmError where
  /-- No mnemonic of R102 or R103 begins the line. -/
  | unknownMnemonic
  /-- CHAR, RSVD, STR or ENCODE without its operand. -/
  | missingOperand
  /-- An operand that is no literal of the forms of R102. -/
  | badOperand
  /-- 'A literal outside 0..255 is refused by the assembler' (R102). -/
  | literalTooLarge
deriving DecidableEq, Repr

/-! ### Words -/

/-- The data field of a literal, refused outside 0..255 (R102). -/
def literalData (n : Nat) : Except AsmError Data :=
  if n < 256 then .ok (BitVec.ofNat 8 n) else .error .literalTooLarge

/-- One command with a literal operand. -/
def oneWord (make : Data → Instr) (n : Nat) : Except AsmError (List CmdWord) :=
  match literalData n with
  | .ok d => .ok [encode (make d)]
  | .error e => .error e

/-- `STR "text"`: one CHAR per byte, in order (R103). -/
def strWords (bytes : List Data) : List CmdWord :=
  bytes.map fun b => encode (.charCmd b)

/-- The words of a statement (R102, R103). -/
def stmtWords : Stmt → Except AsmError (List CmdWord)
  | .beginStmt n => oneWord .beginCmd (n.getD 0)
  | .charStmt n => oneWord .charCmd n
  | .endStmt n => oneWord .endCmd (n.getD 0)
  | .rsvdStmt n => oneWord .rsvdCmd n
  | .strStmt bytes => .ok (strWords bytes)
  | .encodeStmt bytes => .ok ([encode (.beginCmd 0#8)] ++ strWords bytes ++ [encode (.endCmd 0#8)])

/-! ### Text

The text is read as the list of its character codes: 10 newline, 34 double quote, 39 single quote, 48 the digit 0,
59 semicolon, 92 backslash, 120 the letter x. -/

/-- A blank inside a line: space, tab or carriage return. DESIGN CHOICE, unsafe: log entry 15. -/
def isBlank (c : Nat) : Bool :=
  c == 32 || c == 9 || c == 13

/-- The value of a decimal digit. -/
def decDigit (c : Nat) : Option Nat :=
  if 48 ≤ c ∧ c ≤ 57 then some (c - 48) else none

/-- The value of a hexadecimal digit. -/
def hexDigit (c : Nat) : Option Nat :=
  if 48 ≤ c ∧ c ≤ 57 then some (c - 48)
  else if 65 ≤ c ∧ c ≤ 70 then some (c - 55)
  else if 97 ≤ c ∧ c ≤ 102 then some (c - 87)
  else none

/-- A letter as a capital: mnemonics are case-insensitive (R102). -/
def capital (c : Nat) : Nat :=
  if 97 ≤ c ∧ c ≤ 122 then c - 32 else c

/-- The number whose digits follow, most significant first, on top of the value read so far. -/
def digitsValue (base : Nat) (digit : Nat → Option Nat) : List Nat → Nat → Option Nat
  | [], acc => some acc
  | c :: cs, acc =>
    match digit c with
    | some d => digitsValue base digit cs (base * acc + d)
    | none => none

/-- The byte that `xHH` names. -/
def hexByte (h l : Nat) : Option Nat :=
  match hexDigit h, hexDigit l with
  | some a, some b => some (16 * a + b)
  | _, _ => none

/-- The code inside a character literal: one character that stands for its ASCII code, or an escape of a
single quote, a backslash or `xHH` (R102). -/
def charLiteral : List Nat → Option Nat
  | [c] => if c = 39 ∨ c = 92 ∨ 128 ≤ c then none else some c
  | [e, c] => if e = 92 ∧ (c = 39 ∨ c = 92) then some c else none
  | [e, x, h, l] => if e = 92 ∧ x = 120 then hexByte h l else none
  | _ => none

/-- The value of a literal: a character in single quotes, `0x` hexadecimal, or decimal (R102). -/
def literalValue (text : List Nat) : Option Nat :=
  match text with
  | [] => none
  | c :: rest =>
    if c = 39 then
      if rest.getLast? = some 39 then charLiteral rest.dropLast else none
    else
      match rest with
      | x :: h :: hs =>
        if c = 48 ∧ x = 120 then digitsValue 16 hexDigit (h :: hs) 0
        else digitsValue 10 decDigit text 0
      | _ => digitsValue 10 decDigit text 0

/-- A literal, refused outside 0..255 (R102). -/
def literal (text : List Nat) : Except AsmError Nat :=
  match literalValue text with
  | some n => if n < 256 then .ok n else .error .literalTooLarge
  | none => .error .badOperand

/-- The bytes of a string after its opening double quote, up to the closing one, which ends the text.
Escapes are a double quote, a backslash or `xHH` after a backslash (R103). -/
def stringBytes : List Nat → Option (List Data)
  | [] => none
  | c :: rest =>
    if c = 34 then
      if rest = [] then some [] else none
    else if c = 92 then
      match rest with
      | [] => none
      | d :: rest' =>
        if d = 34 ∨ d = 92 then (stringBytes rest').map (BitVec.ofNat 8 d :: ·)
        else if d = 120 then
          match rest' with
          | h :: l :: rest'' =>
            match hexByte h l with
            | some b => (stringBytes rest'').map (BitVec.ofNat 8 b :: ·)
            | none => none
          | _ => none
        else none
    else if c < 256 then (stringBytes rest).map (BitVec.ofNat 8 c :: ·)
    else none

/-- A quoted string. -/
def stringLiteral : List Nat → Except AsmError (List Data)
  | [] => .error .missingOperand
  | c :: rest =>
    if c = 34 then
      match stringBytes rest with
      | some bs => .ok bs
      | none => .error .badOperand
    else .error .badOperand

/-- The lines of a text: a newline ends a line. DESIGN CHOICE, unsafe: log entry 15. -/
def splitLines : List Nat → List (List Nat)
  | [] => [[]]
  | c :: cs =>
    match splitLines cs with
    | [] => [[c]]
    | l :: ls => if c = 10 then [] :: l :: ls else (c :: l) :: ls

/-- The line up to its comment, 'from `;` to the end of the line' (R102). A `;` inside quotes is text: `opened`
is the quote that is open, and the Bool says that the character before was a backslash inside it. DESIGN CHOICE, unsafe:
log entry 15. -/
def stripComment : Option Nat → Bool → List Nat → List Nat
  | _, _, [] => []
  | none, _, c :: cs =>
    if c = 59 then []
    else if c = 34 then c :: stripComment (some 34) false cs
    else if c = 39 then c :: stripComment (some 39) false cs
    else c :: stripComment none false cs
  | some q, true, c :: cs => c :: stripComment (some q) false cs
  | some q, false, c :: cs =>
    if c = 92 then c :: stripComment (some q) true cs
    else if c = q then c :: stripComment none false cs
    else c :: stripComment (some q) false cs

/-- Without the blanks at both ends. -/
def trim (l : List Nat) : List Nat :=
  ((l.dropWhile isBlank).reverse.dropWhile isBlank).reverse

/-- An operand that may be omitted. -/
def optionalLiteral (text : List Nat) : Except AsmError (Option Nat) :=
  if text = [] then .ok none else (literal text).map some

/-- An operand that must be there. -/
def requiredLiteral (text : List Nat) : Except AsmError Nat :=
  if text = [] then .error .missingOperand else literal text

/-- The codes of a name. -/
def codesOf (name : List Char) : List Nat :=
  name.map Char.toNat

/-- The statement of a mnemonic, in capitals, and its operand text (R102, R103). -/
def statement (mnemonic : List Nat) (operand : List Nat) : Except AsmError Stmt :=
  if mnemonic = codesOf ['B', 'E', 'G', 'I', 'N'] then (optionalLiteral operand).map .beginStmt
  else if mnemonic = codesOf ['C', 'H', 'A', 'R'] then (requiredLiteral operand).map .charStmt
  else if mnemonic = codesOf ['E', 'N', 'D'] then (optionalLiteral operand).map .endStmt
  else if mnemonic = codesOf ['R', 'S', 'V', 'D'] then (requiredLiteral operand).map .rsvdStmt
  else if mnemonic = codesOf ['S', 'T', 'R'] then (stringLiteral operand).map .strStmt
  else if mnemonic = codesOf ['E', 'N', 'C', 'O', 'D', 'E'] then (stringLiteral operand).map .encodeStmt
  else .error .unknownMnemonic

/-- The statement of a line without its comment, none for a line that is then empty: such a line is accepted and gives
no words. DESIGN CHOICE, unsafe: log entry 15 (R102: 'one statement per line'). -/
def parseText (text : List Nat) : Except AsmError (Option Stmt) :=
  if text = [] then .ok none
  else
    (statement ((text.takeWhile (!isBlank ·)).map capital) (trim (text.dropWhile (!isBlank ·)))).map some

/-- The statement of a line (R102). -/
def parseLine (line : List Nat) : Except AsmError (Option Stmt) :=
  parseText (trim (stripComment none false line))

/-- The words of a line. -/
def lineWords (line : List Nat) : Except AsmError (List CmdWord) :=
  match parseLine line with
  | .ok (some st) => stmtWords st
  | .ok none => .ok []
  | .error e => .error e

/-- The words of lines, in order; the first line that is refused refuses the text. DESIGN CHOICE, unsafe: log entry 15. -/
def assembleLines : List (List Nat) → Except AsmError (List CmdWord)
  | [] => .ok []
  | l :: ls =>
    match lineWords l, assembleLines ls with
    | .ok ws, .ok rest => .ok (ws ++ rest)
    | .error e, _ => .error e
    | .ok _, .error e => .error e

/-- The assembler: the command words of a source text (R102, R103). -/
def assemble (source : List Char) : Except AsmError (List CmdWord) :=
  assembleLines (splitLines (codesOf source))

end Sys2Proof.Machine
end

