-- ==== Sys2Proof/Machine/Reference.lean ====
section
/-! DEFINITION. The spec's reference functions of a whole input string: checksum (41_checksum.md R150), pattern list (42_concatenator.md R177) and output (43_expander.md R196, R197). The machine never calls them; claims compare it with them. -/

namespace Sys2Proof.Machine

/-- `idx_i = c_i - 32` (00_scope.md R14). -/
def refIndex (c : Data) : Nat :=
  charCode c - charLo

/-- `sum idx_i * (i + 1)` over the characters listed from position `i` on (R150). -/
def weightedSum : List Data → Nat → Nat
  | [], _ => 0
  | c :: cs, i => refIndex c * (i + 1) + weightedSum cs (i + 1)

/-- `C(s)`: natural, unbounded (R150). -/
def refSum (s : List Data) : Nat :=
  ckSeed + weightedSum s 0

/-- `K(s) = C(s) mod 103` (R150). -/
def refChecksum (s : List Data) : Nat :=
  refSum s % ckMod

/-- `Pattern(s) = [104] ++ [idx_0, .., idx_{n-1}] ++ [K(s)] ++ [106]` (R177). -/
def refPattern (s : List Data) : List Nat :=
  [startB.toNat] ++ s.map refIndex ++ [refChecksum s] ++ [stopSym.toNat]

/-- `digits(p)`: the widths of the symbol at ROM address `p` (R196). -/
def digits (cfg : Config) (p : Nat) : List Nat :=
  match romWord cfg p with
  | some w => romWidths w
  | none => []

/-- `D(s) = digits(P[0]) ++ .. ++ digits(P[n+2])` (R196). -/
def refDigits (cfg : Config) (s : List Data) : List Nat :=
  (refPattern s).flatMap (digits cfg)

/-- `O(s)`: the pairs (bar, width), where position j is a bar when j is even (R196). -/
def refSegments (cfg : Config) (s : List Data) : List (Bool × Nat) :=
  (refDigits cfg s).zipIdx.map fun dj => (dj.2 % 2 == 0, dj.1)

/-- `Words(s)`: the segment words `{j == len(D(s)) - 1, j even, D(s)[j]}` (R196). -/
def refWords (cfg : Config) (s : List Data) : List SegWord :=
  (refDigits cfg s).zipIdx.map fun dj =>
    packSegment (dj.2 == (refDigits cfg s).length - 1) (dj.2 % 2 == 0) (BitVec.ofNat 3 dj.1)

/-- `6*n + 19`: the number of segments of an output (R197). -/
def refSegCount (n : Nat) : Nat :=
  6 * n + 19

/-- `11*n + 35`: the number of modules of an output (R197). -/
def refModuleCount (n : Nat) : Nat :=
  symWidth * (n + 2) + stopWidth

end Sys2Proof.Machine
end

