-- ==== Sys2Proof/Safety.lean ====
section
/-! DEFINITION. The terms claims are stated in: the invariant of 10_state.md R34, what a run from outside looks like (edges of host and sink), and the observation of 92_eei_decisions.md D30. -/

namespace Sys2Proof.Machine

/-! ### The invariant -/

/-- R34 (e): entries 0..len-1 of BUF hold a value, each in 0..94. -/
def Filled (s : State) : Prop :=
  ∀ k, k < s.len → ∃ v, bufRead s k = .ok v ∧ v.toNat ≤ 94

/-- R34 (f): in EMIT, `sym_ptr <= len+2` and `seg_ptr < L(P[sym_ptr])`. -/
def PointersInRange (s : State) : Prop :=
  s.symPtr ≤ s.len + 2 ∧ ∃ w, currentSymbol s = .ok w ∧ s.segPtr.toNat < romLen w

/-- What holds in every reachable state: the clauses (a) to (f) of R34, the configuration's checks (20_memory.md
R62), and what the writers of R33 leave in the registers R34 does not name. -/
structure Inv (s : State) : Prop where
  /-- 20_memory.md R62. -/
  config : s.cfg.wellFormed = true
  /-- R34 (a). -/
  errIff : s.errCode ≠ .none ↔ s.state = .error
  /-- 30_encoding.md R100: values 5 to 7 are never produced. -/
  errProduced : s.errCode.unused = false
  /-- R34 (b). -/
  lenLe : s.len ≤ s.cfg.maxLen
  /-- R34 (c). -/
  accLe : s.acc.toNat ≤ 102
  /-- R34 (c). -/
  ckLe : s.ckIdx.toNat ≤ 102
  /-- R34 (d). -/
  stateUsed : s.state.unused = false
  /-- R34 (e). -/
  filled : s.state = .load ∨ s.state = .emit ∨ s.state = .done → Filled s
  /-- R34 (f). -/
  pointers : s.state = .emit → PointersInRange s
  /-- Outside EMIT the pointers are 0 (R33). -/
  pointersRest : s.state ≠ .emit → s.symPtr = 0 ∧ s.segPtr = 0#3
  /-- `err_pos` is a value `len` had (R29). -/
  errPosLe : s.errPos ≤ s.cfg.maxLen
  /-- BUF is in canonical form. -/
  bufCanonical : Memory.wf s.buf = true
  /-- Only addresses 0..MAX_LEN-1 hold a value, and the values are symbol indices of characters (20_memory.md R66). -/
  bufEntries : ∀ k v, Memory.get s.buf k = some v → k < s.cfg.maxLen ∧ v.toNat ≤ 94

/-- The block can take a command: it is not stuck and not in EMIT (R21, 30_encoding.md R99). -/
def ready (s : State) : Bool :=
  (stuckFault s).isNone && cmdReady s

/-! ### Runs: the edges a host and a sink make -/

/-- No edge of the list asserts `rst`. -/
def noReset (es : List Pins) : Bool :=
  es.all (fun p => !p.rst)

/-- The command words presented, one per edge with `cmd_valid`. -/
def commandWords (es : List Pins) : List CmdWord :=
  (es.filter (·.cmdValid)).map (·.cmdWord)

/-- The number of edges at which the sink accepts a segment. -/
def accepts (es : List Pins) : Nat :=
  (es.filter (·.segReady)).length

/-- The list ends with an edge that presents a command. -/
def endsInCommand (es : List Pins) : Bool :=
  es.getLast?.any (·.cmdValid)

/-- The list ends with an edge at which the sink accepts. -/
def endsInAccept (es : List Pins) : Bool :=
  es.getLast?.any (·.segReady)

/-- The words of one transaction: BEGIN, one CHAR per character, END (43_expander.md R199). `d0` and `d1` are the
ignored data fields of BEGIN and END. -/
def transactionWords (d0 : Data) (s : List Data) (d1 : Data) : List CmdWord :=
  encode (.beginCmd d0) :: (s.map (fun c => encode (.charCmd c)) ++ [encode (.endCmd d1)])

/-- Edges that transfer exactly the commands of one transaction, with any stalls of the host between them and
any behaviour of the sink, up to and with the edge of END (R199: 'with no reset and no other command in
between'). -/
def inputPhase (es : List Pins) (d0 : Data) (s : List Data) (d1 : Data) : Bool :=
  noReset es && commandWords es == transactionWords d0 s d1 && endsInCommand es

/-- Edges at which the sink takes the whole output of n characters, with any stalls of the sink between them and
any commands presented, which wait (10_state.md R21), up to and with the edge of the last segment. -/
def outputPhase (es : List Pins) (n : Nat) : Bool :=
  noReset es && accepts es == refSegCount n && endsInAccept es

/-- Every character is accepted: at most MAX_LEN of them, each in 32..126 (R199). -/
def acceptable (cfg : Config) (s : List Data) : Bool :=
  decide (s.length ≤ cfg.maxLen) && s.all charAccepted

/-- Position `i` of the input is one that raises an error: `i = MAX_LEN` or `c_i` outside 32..126 (R199). -/
def badAt (cfg : Config) (s : List Data) (i : Nat) : Bool :=
  match s[i]? with
  | some c => decide (i = cfg.maxLen) || !charAccepted c
  | none => false

/-- `i` is the smallest bad position, R199's `i*`. -/
def firstBad (cfg : Config) (s : List Data) (i : Nat) : Bool :=
  badAt cfg s i && (List.range i).all (fun j => !badAt cfg s j)

/-- The commands run one after another by `exec`, with no edges between them. -/
def execAll : List Instr → State → Out
  | [], s => .next s
  | i :: is, s =>
    match exec i s with
    | .next t => execAll is t
    | .fault f => .fault f
    | .refused r => .refused r

/-! ### Frames: what an event leaves as it was -/

/-- The parameters, the input ports and what the sink has taken are as before. -/
def SameOutside (s t : State) : Prop :=
  t.cfg = s.cfg ∧ t.inputs = s.inputs ∧ t.delivered = s.delivered

/-- The three error registers are as before. -/
def SameErr (s t : State) : Prop :=
  t.errCode = s.errCode ∧ t.errPos = s.errPos ∧ t.errChar = s.errChar

/-- The emission pointers are as before. -/
def SamePointers (s t : State) : Prop :=
  t.symPtr = s.symPtr ∧ t.segPtr = s.segPtr

/-- Every entry of BUF reads as before. -/
def SameBuf (s t : State) : Prop :=
  ∀ k, bufRead t k = bufRead s k

/-- Every entry of BUF but the one at `a` reads as before. -/
def SameBufExcept (a : Nat) (s t : State) : Prop :=
  ∀ k, k ≠ a → bufRead t k = bufRead s k

/-- No entry of BUF holds a value (20_memory.md R67). -/
def NoEntry (t : State) : Prop :=
  ∀ k v, bufRead t k ≠ .ok v

/-- The block has taken an error raised by a command with data field `d`: the state and the error registers are
written, and nothing else (60_exceptions.md R226). -/
def Raised (code : ErrCode) (d : Data) (s t : State) : Prop :=
  t.state = .error ∧ t.errCode = code ∧ t.errPos = s.len ∧ t.errChar = d ∧
    t.len = s.len ∧ t.acc = s.acc ∧ t.ckIdx = s.ckIdx ∧ SameBuf s t ∧ SamePointers s t ∧ SameOutside s t

/-! ### Observation -/

/-- What D30 lets an observer see of a finished transaction: the segment words transferred since its BEGIN and
the status ports. -/
structure Observation where
  words : List SegWord
  state : BitVec 3
  errCode : BitVec 3
  errPos : Nat
  errChar : BitVec 8
  len : Nat
  ckIdx : BitVec 7
  totalSegs : Nat
  totalModules : Nat
deriving DecidableEq, Repr

/-- The observation of a transaction that was opened in `before` and has reached `after` (D30). -/
def observe (before after : State) : Observation :=
  { words := after.delivered.drop before.delivered.length
    state := statusState after
    errCode := statusErrCode after
    errPos := (statusErrPos after).toNat
    errChar := statusErrChar after
    len := (statusLen after).toNat
    ckIdx := statusCkIdx after
    totalSegs := (totalSegs after).toNat
    totalModules := (totalModules after).toNat }

/-- The registers and BUF of two states agree: all of the block's state but its parameters (R25 to R32). -/
def sameBlock (s t : State) : Bool :=
  s.state == t.state && s.len == t.len && s.acc == t.acc && s.ckIdx == t.ckIdx && s.errCode == t.errCode &&
    s.errPos == t.errPos && s.errChar == t.errChar && s.buf == t.buf && s.symPtr == t.symPtr &&
    s.segPtr == t.segPtr

end Sys2Proof.Machine
end

