-- ==== Sys2Proof/Certificates/Slice0/Obligations.lean ====
section
/-! DEFINITION. The statements about the machine, each from the numbered rules of spec/. -/

open Sys2Proof Sys2Proof.Machine

/-! ### Encodings -/

/-- R90, R91, R101: decoding an encoded command gives it back, and encoding a decoded word gives it back, so
that no bit of a command word is dropped and no two words mean one command. -/
def Obligations.DecodeEncodeRoundTrip : Prop :=
  (∀ i : Instr, i.wellFormed = true → decode (encode i) = i) ∧ ∀ w : CmdWord, encode (decode w) = w

/-- R91: the opcode map. Every word selects exactly one row of the table, the row of the command it decodes to;
and the four values of `op` are the four commands. -/
def Obligations.EveryWordSelectsOneRow : Prop :=
  ∀ w : CmdWord,
    ((opcodeTable.filter (·.selects w)).map (·.mnemonic) = [mnemonicOf (decode w)]) ∧
    dataOf (decode w) = w.extractLsb' 0 8 ∧
    (w.extractLsb' 8 2 = 0b00#2 ↔ mnemonicOf (decode w) = "BEGIN") ∧
    (w.extractLsb' 8 2 = 0b01#2 ↔ mnemonicOf (decode w) = "CHAR") ∧
    (w.extractLsb' 8 2 = 0b10#2 ↔ mnemonicOf (decode w) = "END") ∧
    (w.extractLsb' 8 2 = 0b11#2 ↔ mnemonicOf (decode w) = "RSVD")

/-- 95_test_vectors.md V-W1: words written out bit by bit decode to the commands they stand for. -/
def Obligations.SpecWordsDecode : Prop :=
  decode 0b0000000000#10 = .beginCmd 0x00#8 ∧ decode 0b0011111111#10 = .beginCmd 0xFF#8 ∧
  decode 0b0101000001#10 = .charCmd 0x41#8 ∧ decode 0b0101111111#10 = .charCmd 0x7F#8 ∧
  decode 0b1000000000#10 = .endCmd 0x00#8 ∧ decode 0b1001010101#10 = .endCmd 0x55#8 ∧
  decode 0b1110101011#10 = .rsvdCmd 0xAB#8 ∧ decode 0b1111111111#10 = .rsvdCmd 0xFF#8

/-- R97, R98: a ROM word made from six or seven widths of 1..4 has that declared length and those widths. -/
def Obligations.RomWordHoldsItsWidths : Prop :=
  ∀ ws : List Nat, ws.length = 6 ∨ ws.length = 7 → (∀ x ∈ ws, 1 ≤ x ∧ x ≤ 4) →
    romLen (romWordOf ws) = ws.length ∧ romWidths (romWordOf ws) = ws

/-- R95: the fields of a segment word stand at bits [2:0], [3] and [4]. -/
def Obligations.SegmentWordFields : Prop :=
  ∀ (last bar : Bool) (width : BitVec 3),
    (packSegment last bar width).extractLsb' 0 3 = width ∧
    (packSegment last bar width).getLsbD 3 = bar ∧
    (packSegment last bar width).getLsbD 4 = last

/-- R102: the words of the four statements, the operand left out counting as 0, and the refusal of a literal
outside 0..255. -/
def Obligations.AssemblerStatementWords : Prop :=
  (∀ n, n < 256 →
    stmtWords (.beginStmt (some n)) = .ok [BitVec.ofNat 10 n] ∧
    stmtWords (.charStmt n) = .ok [BitVec.ofNat 10 (256 + n)] ∧
    stmtWords (.endStmt (some n)) = .ok [BitVec.ofNat 10 (512 + n)] ∧
    stmtWords (.rsvdStmt n) = .ok [BitVec.ofNat 10 (768 + n)]) ∧
  (stmtWords (.beginStmt none) = .ok [0x000#10] ∧ stmtWords (.endStmt none) = .ok [0x200#10]) ∧
  (∀ n, 256 ≤ n →
    stmtWords (.beginStmt (some n)) = .error .literalTooLarge ∧
    stmtWords (.charStmt n) = .error .literalTooLarge ∧
    stmtWords (.endStmt (some n)) = .error .literalTooLarge ∧
    stmtWords (.rsvdStmt n) = .error .literalTooLarge)

/-- R103: a STR line of printable characters without a quote or a backslash assembles to one CHAR per
character, in order, whatever blanks and semicolons the text holds. That a semicolon inside quotes is text is
the model's reading (log entry 15). -/
def Obligations.StrTextAssembles : Prop :=
  ∀ text : List Char,
    (∀ c ∈ text, 32 ≤ c.toNat ∧ c.toNat ≤ 126 ∧ c.toNat ≠ 34 ∧ c.toNat ≠ 92) →
    assemble (['S', 'T', 'R', ' ', Char.ofNat 34] ++ text ++ [Char.ofNat 34]) =
      .ok (text.map fun c => encode (.charCmd (BitVec.ofNat 8 c.toNat)))

/-- R104: the encoding examples, source text to words. -/
def Obligations.AssemblerExamples : Prop :=
  assemble ['B', 'E', 'G', 'I', 'N'] = .ok [0x000#10] ∧
  assemble ['C', 'H', 'A', 'R', ' ', Char.ofNat 39, 'A', Char.ofNat 39] = .ok [0x141#10] ∧
  assemble ['C', 'H', 'A', 'R', ' ', Char.ofNat 39, ' ', Char.ofNat 39] = .ok [0x120#10] ∧
  assemble ['C', 'H', 'A', 'R', ' ', Char.ofNat 39, Char.ofNat 126, Char.ofNat 39] = .ok [0x17E#10] ∧
  assemble ['C', 'H', 'A', 'R', ' ', '0', 'x', '0', '7'] = .ok [0x107#10] ∧
  assemble ['E', 'N', 'D'] = .ok [0x200#10] ∧
  assemble ['R', 'S', 'V', 'D', ' ', '0', 'x', 'A', 'B'] = .ok [0x3AB#10] ∧
  assemble ['E', 'N', 'C', 'O', 'D', 'E', ' ', Char.ofNat 34, 'H', 'i', Char.ofNat 34] =
    .ok [0x000#10, 0x148#10, 0x169#10, 0x200#10]

/-! ### Configuration -/

/-- R62: the checks a configuration passes, in the rule's own terms. WF3 is the type of a word and WF5 leaves
address 107 free. `1 <= maxLen` is R6; that 107 or 108 words are listed is the model's form of the 108
locations, of which the last is unspecified (log entry 7). -/
def Obligations.WellFormednessChecks : Prop :=
  ∀ cfg : Config, cfg.wellFormed = true ↔
    1 ≤ cfg.maxLen ∧ (cfg.rom.length = 107 ∨ cfg.rom.length = 108) ∧
    (∀ a, a ≤ 105 → ∃ w, romWord cfg a = some w ∧ w.getLsbD 14 = false ∧ w.extractLsb' 12 2 = 0b00#2 ∧
      romWidth w 0 + romWidth w 1 + romWidth w 2 + romWidth w 3 + romWidth w 4 + romWidth w 5 = 11) ∧
    (∃ w, romWord cfg 106 = some w ∧ w.getLsbD 14 = true ∧
      romWidth w 0 + romWidth w 1 + romWidth w 2 + romWidth w 3 + romWidth w 4 + romWidth w 5 + romWidth w 6 = 13 ∧
      romWidth w 6 = 2) ∧
    (∀ a b u v, a < b → b ≤ 102 → romWord cfg a = some u → romWord cfg b = some v → romWidths u ≠ romWidths v)

/-- R225, R62, R6: a configuration that fails a check is refused before any event, whatever the state and the ports.
That every step is refused, a reset edge too, under this name, and that MAX_LEN = 0 is refused in the same way, are
the model's choice (DESIGN CHOICE, log entry 3), and so is the check of the length of the ROM's list (DESIGN CHOICE,
log entry 7). -/
def Obligations.IllFormedConfigRefused : Prop :=
  ∀ s : State, s.cfg.wellFormed = false → step s = .refused .illFormedConfig

/-- V-W3: the refused and accepted configurations made from the reference ROM by changing one word, or by listing one at
address 107. The reference contents are PRESUMED (log entry 14); that address 107 may be listed or left out is log
entry 7. -/
def Obligations.ChangedReferenceRoms : Prop :=
  (⟨255, referenceRom.set 0 0x0000#15⟩ : Config).wellFormed = false ∧
  (⟨255, referenceRom.set 106 0x1029#15⟩ : Config).wellFormed = false ∧
  (⟨255, referenceRom.set 106 0x6029#15⟩ : Config).wellFormed = false ∧
  (⟨255, referenceRom.set 1 0x0551#15⟩ : Config).wellFormed = false ∧
  (⟨255, referenceRom ++ [0x7FFF#15]⟩ : Config).wellFormed = true ∧
  (⟨255, referenceRom.set 103 0x0C41#15⟩ : Config).wellFormed = true

/-- R60, R61, R64: no step changes the ROM's contents or MAX_LEN. -/
def Obligations.StepKeepsConfiguration : Prop :=
  ∀ s t : State, step s = .next t → t.cfg = s.cfg

/-! ### The edge -/

/-- R21, R120, R260: at an edge without reset at which a command is presented to a block that can take it, the
step is `exec` of the decoded command; around it the step only uses up the edge's input sample. -/
def Obligations.StepRunsPresentedCommand : Prop :=
  ∀ (s : State) (p : Pins) (rest : List Pins),
    s.cfg.wellFormed = true → ready s = true → s.inputs = p :: rest → p.rst = false → p.cmdValid = true →
    step s = exec (decode p.cmdWord) { s with inputs := rest }

/-- R250, R37: the reset event, in any state and whatever the other ports show. That a reset acts in a state with an
unused encoding of `state` or `err_code` too is the model's reading of 'in any state' (DEDUCED, log entry 8). That no
transfer happens at the edge shows in the record of what the sink has taken (log entry 10), which stays as it is. -/
def Obligations.ResetEvent : Prop :=
  ∀ (s : State) (p : Pins) (rest : List Pins),
    s.cfg.wellFormed = true → s.inputs = p :: rest → p.rst = true →
    ∃ t, step s = .next t ∧
      t.state = .idle ∧ t.len = 0 ∧ t.acc = 1#7 ∧ t.ckIdx = 0#7 ∧
      t.errCode = .none ∧ t.errPos = 0 ∧ t.errChar = 0#8 ∧ t.symPtr = 0 ∧ t.segPtr = 0#3 ∧
      NoEntry t ∧ t.cfg = s.cfg ∧
      cmdReady t = true ∧ segValid t = false ∧ segWordPort t = .ok 0#5 ∧
      t.inputs = rest ∧ t.delivered = s.delivered

/-- R229, R20: a reset edge does not depend on the other ports, and no state enables both transfers. -/
def Obligations.OneEventPerEdge : Prop :=
  (∀ (s : State) (p q : Pins) (rest : List Pins), p.rst = true → q.rst = true →
    step { s with inputs := p :: rest } = step { s with inputs := q :: rest }) ∧
  ∀ s : State, ¬(cmdReady s = true ∧ segValid s = true)

/-- R21, R22, R237: at an edge with no reset and no transfer nothing changes but the edge's input sample. -/
def Obligations.QuietEdge : Prop :=
  ∀ (s : State) (p : Pins) (rest : List Pins),
    s.cfg.wellFormed = true → stuckFault s = none → s.inputs = p :: rest → p.rst = false →
    (p.cmdValid && cmdReady s) = false → (segValid s && p.segReady) = false →
    step s = .next { s with inputs := rest }

/-- R257: while the sink does not accept, `seg_valid` and `seg_word` stay as they are, whatever is presented on
the command port. -/
def Obligations.SegmentStability : Prop :=
  ∀ (s : State) (p : Pins) (rest : List Pins),
    s.cfg.wellFormed = true → s.errCode.unused = false → segValid s = true →
    s.inputs = p :: rest → p.rst = false → p.segReady = false →
    ∃ t, step s = .next t ∧ segValid t = true ∧ segWordPort t = segWordPort s ∧ sameBlock s t = true

/-- R21, R256: in EMIT the command port has no effect at any edge. -/
def Obligations.CommandPortIdleInEmit : Prop :=
  ∀ (s : State) (p q : Pins) (rest : List Pins), s.state = .emit → p.rst = q.rst → p.segReady = q.segReady →
    step { s with inputs := p :: rest } = step { s with inputs := q :: rest }

/-- R256, R260: a command that waits in EMIT is executed at the first edge after the last segment transfer, in
state DONE, and the word presented at that edge is the one executed; the word presented while it waited is
not. -/
def Obligations.WaitingCommandRunsAfterOutput : Prop :=
  ∀ (s : State) (p q : Pins) (rest : List Pins) (w : RomWord),
    Inv s → s.state = .emit → currentSymbol s = .ok w → isLast s w = true →
    s.inputs = p :: q :: rest → p.rst = false → p.segReady = true → q.rst = false → q.cmdValid = true →
    ∃ t, step s = .next t ∧ t.state = .done ∧ t.inputs = q :: rest ∧
      step t = exec (decode q.cmdWord) { t with inputs := rest }

/-- R99, R100: the encodings of the status ports, and the stuck states: an unused encoding of `state` makes every
command and every edge without reset stop. That `err_code` 5 to 7 stop too is 93_implementation_defined.md
U11, and that a reset still acts is the model's reading of R250 (log entry 8). -/
def Obligations.UnusedEncodingsAreStuck : Prop :=
  (ctlBits .idle = 0b000#3 ∧ ctlBits .load = 0b001#3 ∧ ctlBits .emit = 0b010#3 ∧ ctlBits .done = 0b011#3 ∧
    ctlBits .error = 0b100#3 ∧ ctlBits .unused5 = 0b101#3 ∧ ctlBits .unused6 = 0b110#3 ∧
    ctlBits .unused7 = 0b111#3) ∧
  (errBits .none = 0#3 ∧ errBits .invalidChar = 1#3 ∧ errBits .lengthOverflow = 2#3 ∧ errBits .protocol = 3#3 ∧
    errBits .illegalCmd = 4#3) ∧
  (∀ (i : Instr) (s : State), s.state.unused = true → exec i s = .fault .stuckState) ∧
  (∀ (s : State) (p : Pins) (rest : List Pins), s.cfg.wellFormed = true → s.inputs = p :: rest → p.rst = false →
    s.state.unused = true → step s = .fault .stuckState) ∧
  (∀ (s : State) (p : Pins) (rest : List Pins), s.cfg.wellFormed = true → s.inputs = p :: rest → p.rst = false →
    s.state.unused = false → s.errCode.unused = true → step s = .fault .stuckErrCode)

/-! ### Commands -/

/-- R121: BEGIN in IDLE, LOAD, DONE or ERROR opens a transaction and clears the error, whatever its data; in EMIT it
waits; a second BEGIN changes nothing more; and the words of BEGIN are those with `op = 0b00`. That `exec` answers the
state unchanged for a command that waits is the model's form of it (DEDUCED, log entry 9), and that no BUF entry is
listed afterwards its form of 'hold no value' (DEDUCED, log entry 6). -/
def Obligations.BeginOpensTransaction : Prop :=
  (∀ w : CmdWord, w.extractLsb' 8 2 = 0b00#2 ↔ ∃ d, decode w = .beginCmd d) ∧
  (∀ (d : Data) (s : State), ready s = true →
    ∃ t, exec (.beginCmd d) s = .next t ∧
      t.state = .load ∧ t.len = 0 ∧ t.acc = 1#7 ∧ t.ckIdx = 0#7 ∧
      t.errCode = .none ∧ t.errPos = 0 ∧ t.errChar = 0#8 ∧ t.symPtr = 0 ∧ t.segPtr = 0#3 ∧
      NoEntry t ∧ SameOutside s t) ∧
  (∀ (d : Data) (s : State), stuckFault s = none → s.state = .emit →
    cmdReady s = false ∧ exec (.beginCmd d) s = .next s) ∧
  ∀ (d e : Data) (s : State), ready s = true →
    execAll [.beginCmd d, .beginCmd e] s = execAll [.beginCmd d] s

/-- R122, R93: a CHAR in LOAD with room in BUF and a code in 32..126 stores `c - 32` at `BUF[len]`, accumulates it
with weight `len + 1`, and increments `len`; it changes nothing else. -/
def Obligations.CharStoresSymbol : Prop :=
  ∀ (c : Data) (s : State),
    s.state = .load → s.errCode.unused = false → s.len < s.cfg.maxLen → 32 ≤ c.toNat → c.toNat ≤ 126 →
    ∃ t, exec (.charCmd c) s = .next t ∧
      t.len = s.len + 1 ∧
      t.acc.toNat = (s.acc.toNat + (c.toNat - 32) * (s.len + 1)) % 103 ∧
      (∃ v, bufRead t s.len = .ok v ∧ v.toNat = c.toNat - 32) ∧ SameBufExcept s.len s t ∧
      t.state = .load ∧ t.ckIdx = s.ckIdx ∧ SameErr s t ∧ SamePointers s t ∧ SameOutside s t

/-- R122, R221, R222, R223: where CHAR raises an error and which: LengthOverflow in LOAD at `len = MAX_LEN` whatever
the code, InvalidCharacter in LOAD below it for a code outside 32..126, ProtocolError in IDLE and DONE. -/
def Obligations.CharRaisesErrors : Prop :=
  (∀ (c : Data) (s : State), s.state = .load → s.errCode.unused = false → s.len = s.cfg.maxLen →
    ∃ t, exec (.charCmd c) s = .next t ∧ Raised .lengthOverflow c s t) ∧
  (∀ (c : Data) (s : State), s.state = .load → s.errCode.unused = false → s.len < s.cfg.maxLen →
    c.toNat < 32 ∨ 126 < c.toNat → ∃ t, exec (.charCmd c) s = .next t ∧ Raised .invalidChar c s t) ∧
  ∀ (c : Data) (s : State), s.state = .idle ∨ s.state = .done → s.errCode.unused = false →
    ∃ t, exec (.charCmd c) s = .next t ∧ Raised .protocol c s t

/-- R123, R154: END in LOAD fixes the checksum index and starts the segment stream; nothing else changes. -/
def Obligations.EndStartsStream : Prop :=
  ∀ (d : Data) (s : State), s.state = .load → s.errCode.unused = false →
    ∃ t, exec (.endCmd d) s = .next t ∧
      t.state = .emit ∧ t.ckIdx = s.acc ∧ statusCkIdx t = s.acc ∧ t.symPtr = 0 ∧ t.segPtr = 0#3 ∧
      cmdReady t = false ∧ segValid t = true ∧
      t.len = s.len ∧ t.acc = s.acc ∧ SameErr s t ∧ SameBuf s t ∧ SameOutside s t

/-- R123, R223: END in IDLE or DONE raises ProtocolError and records its data bits. -/
def Obligations.EndOutsideTransaction : Prop :=
  ∀ (d : Data) (s : State), s.state = .idle ∨ s.state = .done → s.errCode.unused = false →
    ∃ t, exec (.endCmd d) s = .next t ∧ Raised .protocol d s t

/-- R124, R224: RSVD raises IllegalCommand in IDLE, LOAD and DONE; it is absorbed in ERROR and waits in EMIT; and its
words are those with `op = 0b11`. That `exec` answers the state unchanged for a command that waits is the model's form
of it (DEDUCED, log entry 9). -/
def Obligations.RsvdRaisesIllegalCommand : Prop :=
  (∀ w : CmdWord, w.extractLsb' 8 2 = 0b11#2 ↔ ∃ d, decode w = .rsvdCmd d ∧ d = w.extractLsb' 0 8) ∧
  (∀ (d : Data) (s : State), s.state = .idle ∨ s.state = .load ∨ s.state = .done → s.errCode.unused = false →
    ∃ t, exec (.rsvdCmd d) s = .next t ∧ Raised .illegalCmd d s t) ∧
  (∀ (d : Data) (s : State), s.state = .error → s.errCode.unused = false →
    cmdReady s = true ∧ exec (.rsvdCmd d) s = .next s) ∧
  ∀ (d : Data) (s : State), s.state = .emit → s.errCode.unused = false →
    cmdReady s = false ∧ exec (.rsvdCmd d) s = .next s

/-- R120: the dispatch, arm by arm in the rule's order; in EMIT no command transfer happens. That `exec` answers the
state unchanged there is the model's form of it (DEDUCED, log entry 9). -/
def Obligations.DispatchOrder : Prop :=
  (∀ (w : CmdWord) (s : State), ready s = true →
    exec (decode w) s =
      if s.state = .error ∧ w.extractLsb' 8 2 ≠ 0b00#2 then .next s
      else if w.extractLsb' 8 2 = 0b11#2 then .next (raiseErr .illegalCmd s.len (w.extractLsb' 0 8) s)
      else if w.extractLsb' 8 2 = 0b00#2 then .next (openTransaction s)
      else if s.state = .idle ∨ s.state = .done then .next (raiseErr .protocol s.len (w.extractLsb' 0 8) s)
      else if w.extractLsb' 8 2 = 0b01#2 then storeChar (w.extractLsb' 0 8) s
      else .next (closeTransaction s)) ∧
  ∀ (w : CmdWord) (s : State), s.state = .emit → s.errCode.unused = false →
    cmdReady s = false ∧ exec (decode w) s = .next s

/-- R226: taking an error writes `state` and the error registers and nothing else, and the status ports show it. -/
def Obligations.ErrorEntry : Prop :=
  ∀ (i : Instr) (s t : State), exec i s = .next t → s.state ≠ .error → t.state = .error →
    Raised t.errCode (dataOf i) s t ∧ t.errCode ≠ .none ∧ t.errCode.unused = false ∧
    statusState t = 0b100#3 ∧ statusErrCode t = errBits t.errCode ∧
    statusErrPos t = BitVec.ofNat (lw t.cfg) s.len ∧ statusErrChar t = dataOf i

/-- R220: which command in which state raises which code; no segment transfer raises any; and the block comes into
ERROR only at an edge at which a command is transferred. -/
def Obligations.ErrorCauses : Prop :=
  (∀ (i : Instr) (s : State), ready s = true → s.state ≠ .error → s.len ≤ s.cfg.maxLen →
    ((∃ t, exec i s = .next t ∧ Raised .invalidChar (dataOf i) s t) ↔
      (∃ c : Data, i = .charCmd c ∧ s.state = .load ∧ s.len < s.cfg.maxLen ∧ (c.toNat < 32 ∨ 126 < c.toNat))) ∧
    ((∃ t, exec i s = .next t ∧ Raised .lengthOverflow (dataOf i) s t) ↔
      (∃ c : Data, i = .charCmd c ∧ s.state = .load ∧ s.len = s.cfg.maxLen)) ∧
    ((∃ t, exec i s = .next t ∧ Raised .protocol (dataOf i) s t) ↔
      (∃ d : Data, (i = .charCmd d ∨ i = .endCmd d) ∧ (s.state = .idle ∨ s.state = .done))) ∧
    ((∃ t, exec i s = .next t ∧ Raised .illegalCmd (dataOf i) s t) ↔ (∃ d : Data, i = .rsvdCmd d))) ∧
  (∀ s t : State, segOut s = .next t → SameErr s t ∧ (s.state ≠ .error → t.state ≠ .error)) ∧
  ∀ s t : State, step s = .next t → s.state ≠ .error → t.state = .error →
    (pins s).rst = false ∧ (pins s).cmdValid = true ∧ cmdReady s = true

/-- R230: in ERROR every CHAR, END and RSVD is accepted and discarded, so the first error is kept. -/
def Obligations.ErrorAbsorbsCommands : Prop :=
  ∀ (d : Data) (s : State), s.state = .error → s.errCode.unused = false →
    cmdReady s = true ∧ exec (.charCmd d) s = .next s ∧ exec (.endCmd d) s = .next s ∧
      exec (.rsvdCmd d) s = .next s

/-- R92: the data bits of BEGIN and END are ignored, but for what END records when it raises ProtocolError; the
assembler writes 0 there. -/
def Obligations.IgnoredDataBits : Prop :=
  (∀ (d e : Data) (s : State), exec (.beginCmd d) s = exec (.beginCmd e) s) ∧
  (∀ (d e : Data) (s : State), s.state ≠ .idle → s.state ≠ .done → exec (.endCmd d) s = exec (.endCmd e) s) ∧
  (∀ (d : Data) (s : State), s.state = .idle ∨ s.state = .done → s.errCode.unused = false →
    ∃ t, exec (.endCmd d) s = .next t ∧ t.errCode = .protocol ∧ t.errChar = d) ∧
  stmtWords (.beginStmt none) = .ok [encode (.beginCmd 0#8)] ∧ stmtWords (.endStmt none) = .ok [encode (.endCmd 0#8)]

/-- R33: what CHAR leaves as it was, whenever it answers a next state. It stores to BUF at `s.len` and nowhere
else, and only where it is accepted. -/
def Obligations.CharFrame : Prop :=
  ∀ (c : Data) (s t : State), exec (.charCmd c) s = .next t →
    SameOutside s t ∧ SamePointers s t ∧ t.ckIdx = s.ckIdx ∧ SameBufExcept s.len s t ∧
    (s.state ≠ .load ∨ t.state = .error → t.len = s.len ∧ t.acc = s.acc ∧ SameBuf s t) ∧
    (t.state = s.state → SameErr s t)

/-- R33, R21, R67: what BEGIN, END and RSVD leave as it was, whenever they answer a next state. None stores to BUF; BEGIN
leaves its entries without a value (DEDUCED, log entry 6). That `exec` answers the state unchanged for a BEGIN that
waits in EMIT is the model's form of it (DEDUCED, log entry 9). -/
def Obligations.BeginEndRsvdFrame : Prop :=
  (∀ (d : Data) (s t : State), exec (.beginCmd d) s = .next t →
    SameOutside s t ∧ (s.state = .emit → t = s) ∧ (s.state ≠ .emit → NoEntry t)) ∧
  (∀ (d : Data) (s t : State), exec (.endCmd d) s = .next t →
    SameOutside s t ∧ SameBuf s t ∧ t.len = s.len ∧ t.acc = s.acc ∧
    (s.state ≠ .load → t.ckIdx = s.ckIdx ∧ SamePointers s t) ∧ (t.state ≠ .error ∨ s.state = .error → SameErr s t)) ∧
  ∀ (d : Data) (s t : State), exec (.rsvdCmd d) s = .next t →
    SameOutside s t ∧ SameBuf s t ∧ t.len = s.len ∧ t.acc = s.acc ∧ t.ckIdx = s.ckIdx ∧ SamePointers s t ∧
    (t.state = s.state → SameErr s t)

/-- R36, R121: the registers after BEGIN do not depend on what came before. `sameBlock` compares BUF as well: that it is
the same after BEGIN, with no entry listed, is the model's form of 'hold no value' (DEDUCED, log entry 6). -/
def Obligations.BeginForgetsThePast : Prop :=
  ∀ (d e : Data) (s u : State), ready s = true → ready u = true →
    ∃ t v, exec (.beginCmd d) s = .next t ∧ exec (.beginCmd e) u = .next v ∧ sameBlock t v = true

/-! ### Checksum -/

/-- R152: the accumulator update is exact, its sum is bounded, the weight may be reduced first, and no flag is
written. -/
def Obligations.AccumulatorUpdate : Prop :=
  ∀ (c : Data) (s : State),
    s.state = .load → s.errCode.unused = false → s.acc.toNat ≤ 102 → s.len < s.cfg.maxLen → charAccepted c = true →
    ∃ t, exec (.charCmd c) s = .next t ∧
      (charIndex c).toNat ≤ 94 ∧ 1 ≤ s.len + 1 ∧ s.len + 1 ≤ s.cfg.maxLen ∧
      s.acc.toNat + (charIndex c).toNat * (s.len + 1) ≤ 102 + 94 * s.cfg.maxLen ∧
      t.acc.toNat = (s.acc.toNat + (charIndex c).toNat * (s.len + 1)) % 103 ∧
      t.acc.toNat = (s.acc.toNat + (charIndex c).toNat * ((s.len + 1) % 103)) % 103 ∧
      t.acc.toNat ≤ 102 ∧ SameErr s t

/-- R153, R154: after BEGIN and k accepted characters the accumulator is C mod 103 of those characters, BUF holds
their indices, and END exposes it as the checksum index. -/
def Obligations.ChecksumOfTransaction : Prop :=
  ∀ (d0 d1 : Data) (cs : List Data) (s : State), ready s = true → acceptable s.cfg cs = true →
    ∃ t u, execAll (.beginCmd d0 :: cs.map .charCmd) s = .next t ∧
      t.state = .load ∧ t.len = cs.length ∧ t.acc.toNat = refSum cs % 103 ∧
      (∀ i c, cs[i]? = some c → bufRead t i = .ok (charIndex c)) ∧
      exec (.endCmd d1) t = .next u ∧ u.state = .emit ∧ u.ckIdx.toNat = refChecksum cs ∧
      statusCkIdx u = u.ckIdx

/-- R155: the checksum index lies in 0..102, and each of those values is the checksum of some input of at most two
characters. -/
def Obligations.EveryChecksumReached : Prop :=
  (∀ cs : List Data, refChecksum cs ≤ 102) ∧
  ∀ k, k ≤ 102 → ∃ cs : List Data, cs.length ≤ 2 ∧ cs.all charAccepted = true ∧ refChecksum cs = k

/-! ### The segment stream -/

/-- R170, R171, R172, R64: in EMIT and DONE every position of the pattern sequence has its address and its symbol
word: START B, the data symbols of BUF, the checksum symbol, STOP; and only STOP has seven segments. -/
def Obligations.PatternSequence : Prop :=
  ∀ (s : State) (k : Nat), Inv s → s.state = .emit ∨ s.state = .done → k ≤ s.len + 2 →
    ∃ a w, patternAt s k = .ok a ∧ romRead s a = .ok w ∧ symbolAt s k = .ok w ∧
      (k = 0 → a = 104#7) ∧
      (1 ≤ k ∧ k ≤ s.len → bufRead s (k - 1) = .ok a ∧ a.toNat ≤ 94) ∧
      (k = s.len + 1 → a = s.ckIdx ∧ a.toNat ≤ 102) ∧
      (k = s.len + 2 → a = 106#7) ∧
      romLen w = if k = s.len + 2 then 7 else 6

/-- R190: in EMIT the segment transfer answers: the sink takes the word with the width, bar and last bits of the
current segment, which is the word the port shows; the state becomes DONE on the last one only; all else but the
pointers, which PointerSequencing gives, is as before. -/
def Obligations.SegmentTransfer : Prop :=
  ∀ s : State, Inv s → s.state = .emit →
    ∃ w x t, currentSymbol s = .ok w ∧ segWordPort s = .ok x ∧ segOut s = .next t ∧
      t.delivered = s.delivered ++ [x] ∧
      segWordWidth x = romWidth w s.segPtr.toNat ∧ 1 ≤ segWordWidth x ∧ segWordWidth x ≤ 4 ∧
      (segWordBar x = true ↔ s.segPtr.toNat % 2 = 0) ∧
      (segWordLast x = true ↔ s.symPtr = s.len + 2 ∧ s.segPtr.toNat = romLen w - 1) ∧
      t.state = (if segWordLast x then .done else .emit) ∧
      t.cfg = s.cfg ∧ t.inputs = s.inputs ∧ t.len = s.len ∧ t.acc = s.acc ∧ t.ckIdx = s.ckIdx ∧
      SameErr s t ∧ SameBuf s t

/-- R173: END sets the pointers to (0, 0), each segment transfer moves them by exactly one segment, or back to (0, 0)
on the last, and no other event but reset changes them in EMIT. -/
def Obligations.PointerSequencing : Prop :=
  (∀ (d : Data) (s : State), s.state = .load → s.errCode.unused = false →
    ∃ t, exec (.endCmd d) s = .next t ∧ t.symPtr = 0 ∧ t.segPtr = 0#3) ∧
  (∀ s : State, Inv s → s.state = .emit →
    ∃ w t, currentSymbol s = .ok w ∧ segOut s = .next t ∧
      (t.symPtr, t.segPtr.toNat) =
        if s.symPtr = s.len + 2 ∧ s.segPtr.toNat = romLen w - 1 then (0, 0)
        else if s.segPtr.toNat = romLen w - 1 then (s.symPtr + 1, 0)
        else (s.symPtr, s.segPtr.toNat + 1)) ∧
  ∀ s t : State, step s = .next t → s.state = .emit → (pins s).rst = false → (pins s).segReady = false →
    SamePointers s t

/-- R96, R191: the port shows a width in 1..4 in EMIT and 0 elsewhere, and every word a step delivers was on the port
at that edge. -/
def Obligations.DeliveredWidths : Prop :=
  (∀ (s : State) (x : SegWord), segWordPort s = .ok x → segValid s = true →
    1 ≤ segWordWidth x ∧ segWordWidth x ≤ 4) ∧
  (∀ s : State, segValid s = false → segWordPort s = .ok 0#5) ∧
  ∀ s t : State, step s = .next t →
    t.delivered = s.delivered ∨
    ∃ x, t.delivered = s.delivered ++ [x] ∧ segWordPort s = .ok x ∧ segValid s = true ∧ (pins s).segReady = true

/-! ### Invariants -/

/-- R37, R34: the state right after reset, of any well-formed configuration, meets the invariant, and so does the
default one. -/
def Obligations.InvariantAtReset : Prop :=
  (∀ cfg : Config, cfg.wellFormed = true → Inv (State.resetWith cfg)) ∧ Inv State.reset

/-- R34: every step keeps the invariant, from every state that meets it. -/
def Obligations.StepKeepsInvariant : Prop :=
  ∀ s t : State, Inv s → step s = .next t → Inv t

/-- The canonical form of BUF is kept by every step, from every state. -/
def Obligations.StepKeepsBufferCanonical : Prop :=
  ∀ s t : State, Memory.wf s.buf = true → step s = .next t → Memory.wf t.buf = true

/-- R67, R190, R226: from every state that meets the invariant the step answers a next state: no fault of the model is
reachable, whatever the ports show. -/
def Obligations.StepAlwaysAnswers : Prop :=
  ∀ s : State, Inv s → ∃ t, step s = .next t

/-- R9: `bits(v)` is the number of bits that hold 0..v, no register overflows its width, and the widths for
MAX_LEN = 255 are 8, 9, 11 and 12. -/
def Obligations.RegistersFitTheirWidths : Prop :=
  (∀ cfg : Config, lw cfg = bits cfg.maxLen ∧ spw cfg = bits (cfg.maxLen + 2) ∧
    tsw cfg = bits (6 * cfg.maxLen + 19) ∧ tmw cfg = bits (11 * cfg.maxLen + 35)) ∧
  (∀ v n : Nat, v < 2 ^ n ↔ bits v ≤ n) ∧
  (∀ s : State, Inv s →
    s.len < 2 ^ lw s.cfg ∧ s.errPos < 2 ^ lw s.cfg ∧ s.symPtr < 2 ^ spw s.cfg ∧
    6 * s.len + 19 < 2 ^ tsw s.cfg ∧ 11 * s.len + 35 < 2 ^ tmw s.cfg) ∧
  lw referenceConfig = 8 ∧ spw referenceConfig = 9 ∧ tsw referenceConfig = 11 ∧ tmw referenceConfig = 12

/-- R23: the status ports show the registers, and the two totals their formulas, whatever the input ports show. -/
def Obligations.StatusPorts : Prop :=
  ∀ (s : State) (es : List Pins), Inv s →
    statusState { s with inputs := es } = ctlBits s.state ∧
    statusErrCode { s with inputs := es } = errBits s.errCode ∧
    (statusErrPos { s with inputs := es }).toNat = s.errPos ∧
    statusErrChar { s with inputs := es } = s.errChar ∧
    (statusLen { s with inputs := es }).toNat = s.len ∧
    statusCkIdx { s with inputs := es } = s.ckIdx ∧
    (totalSegs { s with inputs := es }).toNat = 6 * s.len + 19 ∧
    (totalModules { s with inputs := es }).toNat = 11 * s.len + 35

/-- R175: every transition of `state`, event by event, with the code of each error; any other pair leaves it
unchanged. -/
def Obligations.ControllerTransitions : Prop :=
  ∀ (s t : State) (p : Pins) (rest : List Pins), s.inputs = p :: rest → step s = .next t →
    (p.rst = true → t.state = .idle) ∧
    (p.rst = false → p.cmdValid = true → s.state ≠ .emit →
      (∀ d, decode p.cmdWord = .beginCmd d → t.state = .load) ∧
      (∀ c, decode p.cmdWord = .charCmd c →
        t.state =
          if s.state = .load then (if s.len = s.cfg.maxLen ∨ charAccepted c = false then .error else .load)
          else .error) ∧
      (∀ d, decode p.cmdWord = .endCmd d → t.state = if s.state = .load then .emit else .error) ∧
      (∀ d, decode p.cmdWord = .rsvdCmd d → t.state = .error) ∧
      (∀ d, decode p.cmdWord = .charCmd d ∨ decode p.cmdWord = .endCmd d → s.state = .idle ∨ s.state = .done →
        t.errCode = .protocol) ∧
      (∀ c, decode p.cmdWord = .charCmd c → s.state = .load → t.state = .error →
        t.errCode = if s.len = s.cfg.maxLen then .lengthOverflow else .invalidChar) ∧
      (∀ d, decode p.cmdWord = .rsvdCmd d → s.state ≠ .error → t.errCode = .illegalCmd)) ∧
    (p.rst = false → s.state = .emit → p.segReady = true →
      ∃ w, currentSymbol s = .ok w ∧ t.state = if isLast s w then .done else .emit) ∧
    (p.rst = false → s.state = .emit → p.segReady = false → t.state = .emit) ∧
    (p.rst = false → s.state ≠ .emit → p.cmdValid = false → t.state = s.state)

/-- R231: ERROR is left only by BEGIN, to LOAD with the error registers cleared, and by reset, to IDLE. -/
def Obligations.LeavingError : Prop :=
  ∀ s t : State, s.state = .error → step s = .next t → t.state ≠ .error →
    ((pins s).rst = true ∧ t.state = .idle) ∨
    ((pins s).rst = false ∧ (pins s).cmdValid = true ∧ (∃ d, decode (pins s).cmdWord = .beginCmd d) ∧
      t.state = .load ∧ t.errCode = .none ∧ t.errPos = 0 ∧ t.errChar = 0#8)

/-- R227: EMIT is entered only by an END in LOAD, and a step delivers a word only from EMIT. -/
def Obligations.EmitEnteredOnlyByEnd : Prop :=
  ∀ s t : State, step s = .next t → s.state ≠ .emit →
    t.delivered = s.delivered ∧
    (t.state = .emit →
      s.state = .load ∧ (pins s).cmdValid = true ∧ ∃ d, decode (pins s).cmdWord = .endCmd d)

/-- R227, R230: over any number of edges without a reset and without a BEGIN, a block in ERROR keeps all its
registers and delivers nothing. -/
def Obligations.ErrorRunsDeliverNothing : Prop :=
  ∀ (es rest : List Pins) (s : State),
    s.cfg.wellFormed = true → s.state = .error → s.errCode.unused = false → noReset es = true →
    (∀ w ∈ commandWords es, opField w ≠ 0b00#2) → s.inputs = es ++ rest →
    Host.Core.run Sys2Proof.core es.length s = .next { s with inputs := rest }

/-! ### Outputs of whole inputs -/

/-- R197, R192, R193: the output of n accepted characters has 6n + 19 segments and 11n + 35 modules; bars stand at the
even positions; the last bit is set at the final position only; every width is in 1..4. -/
def Obligations.OutputShape : Prop :=
  ∀ (cfg : Config) (cs : List Data), cfg.wellFormed = true → acceptable cfg cs = true →
    (refWords cfg cs).length = 6 * cs.length + 19 ∧ (refSegments cfg cs).length = 6 * cs.length + 19 ∧
    (refDigits cfg cs).sum = 11 * cs.length + 35 ∧
    ∀ j x, (refWords cfg cs)[j]? = some x →
      (segWordBar x = true ↔ j % 2 = 0) ∧ (segWordLast x = true ↔ j = 6 * cs.length + 18) ∧
      1 ≤ segWordWidth x ∧ segWordWidth x ≤ 4 ∧ (refDigits cfg cs)[j]? = some (segWordWidth x)

/-- R198: the first six segments of every output are those of START B, a bar first, 11 modules wide; with the
reference ROM they are 2,1,1,2,1,4. -/
def Obligations.StartBInvariant : Prop :=
  (∀ (cfg : Config) (cs : List Data), cfg.wellFormed = true → acceptable cfg cs = true →
    (refDigits cfg cs).take 6 = digits cfg 104 ∧ (digits cfg 104).sum = 11 ∧
    ∃ w, (refSegments cfg cs)[0]? = some (true, w)) ∧
  digits referenceConfig 104 = [2, 1, 1, 2, 1, 4]

/-- R202: the output determines the input, for every ROM that passes the checks. -/
def Obligations.OutputDeterminesInput : Prop :=
  ∀ (cfg : Config) (cs ds : List Data), cfg.wellFormed = true → acceptable cfg cs = true → acceptable cfg ds = true →
    refSegments cfg cs = refSegments cfg ds → cs = ds

/-- V-L1, V-L2, V-C3 to V-C12, V-X2: the checksum indices and width strings the spec works out. The width strings rest on
the reference ROM (log entry 14). -/
def Obligations.WorkedExamples : Prop :=
  refChecksum [] = 1 ∧ refChecksum [65] = 34 ∧ refChecksum [72, 101, 108, 108, 111] = 76 ∧
  refChecksum [126] = 95 ∧ refChecksum [32, 83] = 0 ∧ refChecksum [65, 66] = 102 ∧ refChecksum [66, 65] = 101 ∧
  refPattern [72, 105, 33] = [104, 40, 73, 1, 87, 106] ∧
  refDigits referenceConfig [] = [2, 1, 1, 2, 1, 4, 2, 2, 2, 1, 2, 2, 2, 3, 3, 1, 1, 1, 2] ∧
  refDigits referenceConfig [126] =
    [2, 1, 1, 2, 1, 4, 1, 3, 1, 1, 4, 1, 1, 1, 4, 1, 1, 3, 2, 3, 3, 1, 1, 1, 2]

/-! ### Whole transactions, edge by edge -/

/-- R199 (a): from any state but EMIT, whatever it holds. If host and sink make the edges of one transaction of accepted
characters, with any stalls, then after them the state is DONE, the checksum index is K, no error is recorded,
and the sink has taken exactly `Words(s)`; and when END has been taken the state was EMIT. -/
def Obligations.TransactionContract : Prop :=
  ∀ (s : State) (es fs rest : List Pins) (d0 d1 : Data) (cs : List Data),
    s.cfg.wellFormed = true → ready s = true → acceptable s.cfg cs = true →
    inputPhase es d0 cs d1 = true → outputPhase fs cs.length = true → s.inputs = es ++ fs ++ rest →
    ∃ t u, Host.Core.run Sys2Proof.core es.length s = .next t ∧
      t.state = .emit ∧ t.ckIdx.toNat = refChecksum cs ∧ t.delivered = s.delivered ∧ t.inputs = fs ++ rest ∧
      Host.Core.run Sys2Proof.core (es.length + fs.length) s = .next u ∧
      u.state = .done ∧ u.errCode = .none ∧ u.len = cs.length ∧ u.ckIdx.toNat = refChecksum cs ∧
      u.delivered = s.delivered ++ refWords s.cfg cs ∧ u.inputs = rest

/-- R199 (b): if some character is not accepted, the CHAR at the first such position raises the error, which is
recorded with that position and character; the rest is absorbed, and no segment is delivered. -/
def Obligations.RejectedTransaction : Prop :=
  ∀ (s : State) (es rest : List Pins) (d0 d1 : Data) (cs : List Data) (i : Nat) (c : Data),
    s.cfg.wellFormed = true → ready s = true → inputPhase es d0 cs d1 = true →
    firstBad s.cfg cs i = true → cs[i]? = some c → s.inputs = es ++ rest →
    ∃ t, Host.Core.run Sys2Proof.core es.length s = .next t ∧
      t.state = .error ∧ t.errCode = (if i = s.cfg.maxLen then .lengthOverflow else .invalidChar) ∧
      t.errPos = i ∧ t.errChar = c ∧ t.delivered = s.delivered ∧ segValid t = false ∧ t.inputs = rest

/-- R200: for a fixed SYMBOL_ROM two transactions with the same accepted characters are observed alike (92_eei_decisions.md
D30), whatever came before them, whatever the stalls, and whatever the data bits of BEGIN and END. -/
def Obligations.TransactionsAreDeterministic : Prop :=
  ∀ (s s' : State) (es fs es' fs' : List Pins) (d0 d1 d0' d1' : Data) (cs : List Data),
    s.cfg.wellFormed = true → s'.cfg.wellFormed = true → s'.cfg.rom = s.cfg.rom →
    ready s = true → ready s' = true → acceptable s.cfg cs = true → acceptable s'.cfg cs = true →
    inputPhase es d0 cs d1 = true → outputPhase fs cs.length = true → s.inputs = es ++ fs →
    inputPhase es' d0' cs d1' = true → outputPhase fs' cs.length = true → s'.inputs = es' ++ fs' →
    ∃ t t', Host.Core.run Sys2Proof.core (es.length + fs.length) s = .next t ∧
      Host.Core.run Sys2Proof.core (es'.length + fs'.length) s' = .next t' ∧
      observe s t = observe s' t' ∧ (observe s t).state = 0b011#3

/-- R251: a reset while the output is delivered leaves the sink with a prefix none of whose words has the last
bit, and the block in IDLE. -/
def Obligations.ResetCutsTheStream : Prop :=
  ∀ (s : State) (es fs rest : List Pins) (p : Pins) (d0 d1 : Data) (cs : List Data),
    s.cfg.wellFormed = true → ready s = true → acceptable s.cfg cs = true →
    inputPhase es d0 cs d1 = true → noReset fs = true → accepts fs < refSegCount cs.length →
    p.rst = true → s.inputs = es ++ fs ++ p :: rest →
    ∃ t, Host.Core.run Sys2Proof.core (es.length + fs.length + 1) s = .next t ∧
      t.state = .idle ∧ t.inputs = rest ∧
      t.delivered = s.delivered ++ (refWords s.cfg cs).take (accepts fs) ∧
      ∀ x ∈ (refWords s.cfg cs).take (accepts fs), segWordLast x = false

/-- R262: with a host and a sink that are always ready a transaction of n characters takes n + 2 command edges, then
6n + 19 segment edges, and is DONE after 7n + 21 edges and not before. -/
def Obligations.ReadyTransactionTakes7nPlus21Edges : Prop :=
  ∀ (s : State) (es fs rest : List Pins) (d0 d1 : Data) (cs : List Data),
    s.cfg.wellFormed = true → ready s = true → acceptable s.cfg cs = true →
    inputPhase es d0 cs d1 = true → es.all (·.cmdValid) = true →
    outputPhase fs cs.length = true → fs.all (·.segReady) = true → s.inputs = es ++ fs ++ rest →
    es.length = cs.length + 2 ∧ fs.length = 6 * cs.length + 19 ∧ es.length + fs.length = 7 * cs.length + 21 ∧
    (∀ k, 1 ≤ k → k < 7 * cs.length + 21 →
      ∃ t, Host.Core.run Sys2Proof.core k s = .next t ∧ t.state ≠ .done ∧
        segValid t = decide (cs.length + 2 ≤ k)) ∧
    ∃ t, Host.Core.run Sys2Proof.core (7 * cs.length + 21) s = .next t ∧ t.state = .done ∧ cmdReady t = true
end

