-- ==== Sys2Proof/Laws/Rom.lean ====
section
/-! SUPPORT. What the checks of 20_memory.md R62 say of the words of a well-formed ROM. -/

namespace Sys2Proof.Machine

/-- A symbol word has six or seven segments. -/
theorem romLen_bounds (w : RomWord) : 6 ≤ romLen w ∧ romLen w ≤ 7 := by
  unfold romLen
  cases romN7 w <;> simp

theorem romLen_symbol {w : RomWord} (h : symbolOk w = true) : romLen w = 6 := by
  simp_all [symbolOk, romLen]

theorem romLen_stop {w : RomWord} (h : stopOk w = true) : romLen w = 7 := by
  simp_all [stopOk, romLen]

@[simp] theorem romWidths_length (w : RomWord) : (romWidths w).length = romLen w := by
  simp [romWidths]

theorem romShape_length {cfg : Config} (h : configOk cfg = true) :
    cfg.rom.length = 107 ∨ cfg.rom.length = 108 := by
  simp_all [configOk, romShapeOk]

/-- WF1: an address in 0..105 holds a symbol of six segments and 11 modules. -/
theorem romWord_symbol {cfg : Config} (h : configOk cfg = true) {a : Nat} (ha : a ≤ 105) :
    ∃ w, romWord cfg a = some w ∧ symbolOk w = true := by
  have hl := romShape_length h
  have hall : wf1 cfg.rom = true := by simp_all [configOk]
  have hget : cfg.rom[a]? = some (cfg.rom[a]'(by omega)) := List.getElem?_eq_getElem (by omega)
  refine ⟨cfg.rom[a]'(by omega), by simp [romWord, show a < 107 by omega], ?_⟩
  refine List.all_eq_true.1 hall _ ?_
  exact List.mem_take_iff_getElem.2 ⟨a, by omega, rfl⟩

/-- WF2: address 106 holds the STOP symbol. -/
theorem romWord_stop {cfg : Config} (h : configOk cfg = true) :
    ∃ w, romWord cfg 106 = some w ∧ stopOk w = true := by
  have h2 : wf2 cfg.rom = true := by simp_all [configOk]
  unfold wf2 at h2
  split at h2
  · exact ⟨_, by simpa [romWord] using ‹_›, h2⟩
  · simp at h2

end Sys2Proof.Machine
end

