-- ==== Sys2Proof/Laws/State.lean ====
section
/-! SUPPORT. One lemma per field per register write of Machine/Ops.lean, so that no proof unfolds a record update. -/

namespace Sys2Proof.Machine

/-! ### raiseErr -/

@[simp] theorem raiseErr_cfg (c : ErrCode) (p : Nat) (d : Data) (s : State) :
    (raiseErr c p d s).cfg = s.cfg := rfl
@[simp] theorem raiseErr_state (c : ErrCode) (p : Nat) (d : Data) (s : State) :
    (raiseErr c p d s).state = .error := rfl
@[simp] theorem raiseErr_len (c : ErrCode) (p : Nat) (d : Data) (s : State) :
    (raiseErr c p d s).len = s.len := rfl
@[simp] theorem raiseErr_acc (c : ErrCode) (p : Nat) (d : Data) (s : State) :
    (raiseErr c p d s).acc = s.acc := rfl
@[simp] theorem raiseErr_ckIdx (c : ErrCode) (p : Nat) (d : Data) (s : State) :
    (raiseErr c p d s).ckIdx = s.ckIdx := rfl
@[simp] theorem raiseErr_errCode (c : ErrCode) (p : Nat) (d : Data) (s : State) :
    (raiseErr c p d s).errCode = c := rfl
@[simp] theorem raiseErr_errPos (c : ErrCode) (p : Nat) (d : Data) (s : State) :
    (raiseErr c p d s).errPos = p := rfl
@[simp] theorem raiseErr_errChar (c : ErrCode) (p : Nat) (d : Data) (s : State) :
    (raiseErr c p d s).errChar = d := rfl
@[simp] theorem raiseErr_buf (c : ErrCode) (p : Nat) (d : Data) (s : State) :
    (raiseErr c p d s).buf = s.buf := rfl
@[simp] theorem raiseErr_symPtr (c : ErrCode) (p : Nat) (d : Data) (s : State) :
    (raiseErr c p d s).symPtr = s.symPtr := rfl
@[simp] theorem raiseErr_segPtr (c : ErrCode) (p : Nat) (d : Data) (s : State) :
    (raiseErr c p d s).segPtr = s.segPtr := rfl
@[simp] theorem raiseErr_inputs (c : ErrCode) (p : Nat) (d : Data) (s : State) :
    (raiseErr c p d s).inputs = s.inputs := rfl
@[simp] theorem raiseErr_delivered (c : ErrCode) (p : Nat) (d : Data) (s : State) :
    (raiseErr c p d s).delivered = s.delivered := rfl

/-! ### openTransaction -/

@[simp] theorem openTransaction_cfg (s : State) :
    (openTransaction s).cfg = s.cfg := rfl
@[simp] theorem openTransaction_state (s : State) :
    (openTransaction s).state = .load := rfl
@[simp] theorem openTransaction_len (s : State) :
    (openTransaction s).len = 0 := rfl
@[simp] theorem openTransaction_acc (s : State) :
    (openTransaction s).acc = 1#7 := rfl
@[simp] theorem openTransaction_ckIdx (s : State) :
    (openTransaction s).ckIdx = 0#7 := rfl
@[simp] theorem openTransaction_errCode (s : State) :
    (openTransaction s).errCode = .none := rfl
@[simp] theorem openTransaction_errPos (s : State) :
    (openTransaction s).errPos = 0 := rfl
@[simp] theorem openTransaction_errChar (s : State) :
    (openTransaction s).errChar = 0#8 := rfl
@[simp] theorem openTransaction_buf (s : State) :
    (openTransaction s).buf = [] := rfl
@[simp] theorem openTransaction_symPtr (s : State) :
    (openTransaction s).symPtr = 0 := rfl
@[simp] theorem openTransaction_segPtr (s : State) :
    (openTransaction s).segPtr = 0#3 := rfl
@[simp] theorem openTransaction_inputs (s : State) :
    (openTransaction s).inputs = s.inputs := rfl
@[simp] theorem openTransaction_delivered (s : State) :
    (openTransaction s).delivered = s.delivered := rfl

/-! ### resetRegisters -/

@[simp] theorem resetRegisters_cfg (s : State) :
    (resetRegisters s).cfg = s.cfg := rfl
@[simp] theorem resetRegisters_state (s : State) :
    (resetRegisters s).state = .idle := rfl
@[simp] theorem resetRegisters_len (s : State) :
    (resetRegisters s).len = 0 := rfl
@[simp] theorem resetRegisters_acc (s : State) :
    (resetRegisters s).acc = 1#7 := rfl
@[simp] theorem resetRegisters_ckIdx (s : State) :
    (resetRegisters s).ckIdx = 0#7 := rfl
@[simp] theorem resetRegisters_errCode (s : State) :
    (resetRegisters s).errCode = .none := rfl
@[simp] theorem resetRegisters_errPos (s : State) :
    (resetRegisters s).errPos = 0 := rfl
@[simp] theorem resetRegisters_errChar (s : State) :
    (resetRegisters s).errChar = 0#8 := rfl
@[simp] theorem resetRegisters_buf (s : State) :
    (resetRegisters s).buf = [] := rfl
@[simp] theorem resetRegisters_symPtr (s : State) :
    (resetRegisters s).symPtr = 0 := rfl
@[simp] theorem resetRegisters_segPtr (s : State) :
    (resetRegisters s).segPtr = 0#3 := rfl
@[simp] theorem resetRegisters_inputs (s : State) :
    (resetRegisters s).inputs = s.inputs := rfl
@[simp] theorem resetRegisters_delivered (s : State) :
    (resetRegisters s).delivered = s.delivered := rfl

/-! ### closeTransaction -/

@[simp] theorem closeTransaction_cfg (s : State) :
    (closeTransaction s).cfg = s.cfg := rfl
@[simp] theorem closeTransaction_state (s : State) :
    (closeTransaction s).state = .emit := rfl
@[simp] theorem closeTransaction_len (s : State) :
    (closeTransaction s).len = s.len := rfl
@[simp] theorem closeTransaction_acc (s : State) :
    (closeTransaction s).acc = s.acc := rfl
@[simp] theorem closeTransaction_ckIdx (s : State) :
    (closeTransaction s).ckIdx = s.acc := rfl
@[simp] theorem closeTransaction_errCode (s : State) :
    (closeTransaction s).errCode = s.errCode := rfl
@[simp] theorem closeTransaction_errPos (s : State) :
    (closeTransaction s).errPos = s.errPos := rfl
@[simp] theorem closeTransaction_errChar (s : State) :
    (closeTransaction s).errChar = s.errChar := rfl
@[simp] theorem closeTransaction_buf (s : State) :
    (closeTransaction s).buf = s.buf := rfl
@[simp] theorem closeTransaction_symPtr (s : State) :
    (closeTransaction s).symPtr = 0 := rfl
@[simp] theorem closeTransaction_segPtr (s : State) :
    (closeTransaction s).segPtr = 0#3 := rfl
@[simp] theorem closeTransaction_inputs (s : State) :
    (closeTransaction s).inputs = s.inputs := rfl
@[simp] theorem closeTransaction_delivered (s : State) :
    (closeTransaction s).delivered = s.delivered := rfl

/-! ### appendSymbol -/

@[simp] theorem appendSymbol_cfg (i : SymIdx) (a : BitVec 7) (s : State) :
    (appendSymbol i a s).cfg = s.cfg := rfl
@[simp] theorem appendSymbol_state (i : SymIdx) (a : BitVec 7) (s : State) :
    (appendSymbol i a s).state = s.state := rfl
@[simp] theorem appendSymbol_len (i : SymIdx) (a : BitVec 7) (s : State) :
    (appendSymbol i a s).len = s.len + 1 := rfl
@[simp] theorem appendSymbol_acc (i : SymIdx) (a : BitVec 7) (s : State) :
    (appendSymbol i a s).acc = a := rfl
@[simp] theorem appendSymbol_ckIdx (i : SymIdx) (a : BitVec 7) (s : State) :
    (appendSymbol i a s).ckIdx = s.ckIdx := rfl
@[simp] theorem appendSymbol_errCode (i : SymIdx) (a : BitVec 7) (s : State) :
    (appendSymbol i a s).errCode = s.errCode := rfl
@[simp] theorem appendSymbol_errPos (i : SymIdx) (a : BitVec 7) (s : State) :
    (appendSymbol i a s).errPos = s.errPos := rfl
@[simp] theorem appendSymbol_errChar (i : SymIdx) (a : BitVec 7) (s : State) :
    (appendSymbol i a s).errChar = s.errChar := rfl
@[simp] theorem appendSymbol_buf (i : SymIdx) (a : BitVec 7) (s : State) :
    (appendSymbol i a s).buf = Memory.put s.buf s.len i := rfl
@[simp] theorem appendSymbol_symPtr (i : SymIdx) (a : BitVec 7) (s : State) :
    (appendSymbol i a s).symPtr = s.symPtr := rfl
@[simp] theorem appendSymbol_segPtr (i : SymIdx) (a : BitVec 7) (s : State) :
    (appendSymbol i a s).segPtr = s.segPtr := rfl
@[simp] theorem appendSymbol_inputs (i : SymIdx) (a : BitVec 7) (s : State) :
    (appendSymbol i a s).inputs = s.inputs := rfl
@[simp] theorem appendSymbol_delivered (i : SymIdx) (a : BitVec 7) (s : State) :
    (appendSymbol i a s).delivered = s.delivered := rfl

/-! ### emitWord -/

@[simp] theorem emitWord_cfg (w : SegWord) (s : State) :
    (emitWord w s).cfg = s.cfg := rfl
@[simp] theorem emitWord_state (w : SegWord) (s : State) :
    (emitWord w s).state = s.state := rfl
@[simp] theorem emitWord_len (w : SegWord) (s : State) :
    (emitWord w s).len = s.len := rfl
@[simp] theorem emitWord_acc (w : SegWord) (s : State) :
    (emitWord w s).acc = s.acc := rfl
@[simp] theorem emitWord_ckIdx (w : SegWord) (s : State) :
    (emitWord w s).ckIdx = s.ckIdx := rfl
@[simp] theorem emitWord_errCode (w : SegWord) (s : State) :
    (emitWord w s).errCode = s.errCode := rfl
@[simp] theorem emitWord_errPos (w : SegWord) (s : State) :
    (emitWord w s).errPos = s.errPos := rfl
@[simp] theorem emitWord_errChar (w : SegWord) (s : State) :
    (emitWord w s).errChar = s.errChar := rfl
@[simp] theorem emitWord_buf (w : SegWord) (s : State) :
    (emitWord w s).buf = s.buf := rfl
@[simp] theorem emitWord_symPtr (w : SegWord) (s : State) :
    (emitWord w s).symPtr = s.symPtr := rfl
@[simp] theorem emitWord_segPtr (w : SegWord) (s : State) :
    (emitWord w s).segPtr = s.segPtr := rfl
@[simp] theorem emitWord_inputs (w : SegWord) (s : State) :
    (emitWord w s).inputs = s.inputs := rfl
@[simp] theorem emitWord_delivered (w : SegWord) (s : State) :
    (emitWord w s).delivered = s.delivered ++ [w] := rfl

/-! ### setPointers -/

@[simp] theorem setPointers_cfg (a : Nat) (b : BitVec 3) (s : State) :
    (setPointers a b s).cfg = s.cfg := rfl
@[simp] theorem setPointers_state (a : Nat) (b : BitVec 3) (s : State) :
    (setPointers a b s).state = s.state := rfl
@[simp] theorem setPointers_len (a : Nat) (b : BitVec 3) (s : State) :
    (setPointers a b s).len = s.len := rfl
@[simp] theorem setPointers_acc (a : Nat) (b : BitVec 3) (s : State) :
    (setPointers a b s).acc = s.acc := rfl
@[simp] theorem setPointers_ckIdx (a : Nat) (b : BitVec 3) (s : State) :
    (setPointers a b s).ckIdx = s.ckIdx := rfl
@[simp] theorem setPointers_errCode (a : Nat) (b : BitVec 3) (s : State) :
    (setPointers a b s).errCode = s.errCode := rfl
@[simp] theorem setPointers_errPos (a : Nat) (b : BitVec 3) (s : State) :
    (setPointers a b s).errPos = s.errPos := rfl
@[simp] theorem setPointers_errChar (a : Nat) (b : BitVec 3) (s : State) :
    (setPointers a b s).errChar = s.errChar := rfl
@[simp] theorem setPointers_buf (a : Nat) (b : BitVec 3) (s : State) :
    (setPointers a b s).buf = s.buf := rfl
@[simp] theorem setPointers_symPtr (a : Nat) (b : BitVec 3) (s : State) :
    (setPointers a b s).symPtr = a := rfl
@[simp] theorem setPointers_segPtr (a : Nat) (b : BitVec 3) (s : State) :
    (setPointers a b s).segPtr = b := rfl
@[simp] theorem setPointers_inputs (a : Nat) (b : BitVec 3) (s : State) :
    (setPointers a b s).inputs = s.inputs := rfl
@[simp] theorem setPointers_delivered (a : Nat) (b : BitVec 3) (s : State) :
    (setPointers a b s).delivered = s.delivered := rfl

/-! ### finish -/

@[simp] theorem finish_cfg (s : State) :
    (finish s).cfg = s.cfg := rfl
@[simp] theorem finish_state (s : State) :
    (finish s).state = .done := rfl
@[simp] theorem finish_len (s : State) :
    (finish s).len = s.len := rfl
@[simp] theorem finish_acc (s : State) :
    (finish s).acc = s.acc := rfl
@[simp] theorem finish_ckIdx (s : State) :
    (finish s).ckIdx = s.ckIdx := rfl
@[simp] theorem finish_errCode (s : State) :
    (finish s).errCode = s.errCode := rfl
@[simp] theorem finish_errPos (s : State) :
    (finish s).errPos = s.errPos := rfl
@[simp] theorem finish_errChar (s : State) :
    (finish s).errChar = s.errChar := rfl
@[simp] theorem finish_buf (s : State) :
    (finish s).buf = s.buf := rfl
@[simp] theorem finish_symPtr (s : State) :
    (finish s).symPtr = s.symPtr := rfl
@[simp] theorem finish_segPtr (s : State) :
    (finish s).segPtr = s.segPtr := rfl
@[simp] theorem finish_inputs (s : State) :
    (finish s).inputs = s.inputs := rfl
@[simp] theorem finish_delivered (s : State) :
    (finish s).delivered = s.delivered := rfl

/-! ### nextEdge -/

@[simp] theorem nextEdge_cfg (s : State) :
    (nextEdge s).cfg = s.cfg := rfl
@[simp] theorem nextEdge_state (s : State) :
    (nextEdge s).state = s.state := rfl
@[simp] theorem nextEdge_len (s : State) :
    (nextEdge s).len = s.len := rfl
@[simp] theorem nextEdge_acc (s : State) :
    (nextEdge s).acc = s.acc := rfl
@[simp] theorem nextEdge_ckIdx (s : State) :
    (nextEdge s).ckIdx = s.ckIdx := rfl
@[simp] theorem nextEdge_errCode (s : State) :
    (nextEdge s).errCode = s.errCode := rfl
@[simp] theorem nextEdge_errPos (s : State) :
    (nextEdge s).errPos = s.errPos := rfl
@[simp] theorem nextEdge_errChar (s : State) :
    (nextEdge s).errChar = s.errChar := rfl
@[simp] theorem nextEdge_buf (s : State) :
    (nextEdge s).buf = s.buf := rfl
@[simp] theorem nextEdge_symPtr (s : State) :
    (nextEdge s).symPtr = s.symPtr := rfl
@[simp] theorem nextEdge_segPtr (s : State) :
    (nextEdge s).segPtr = s.segPtr := rfl
@[simp] theorem nextEdge_inputs (s : State) :
    (nextEdge s).inputs = s.inputs.tail := rfl
@[simp] theorem nextEdge_delivered (s : State) :
    (nextEdge s).delivered = s.delivered := rfl

/-! ### The state after reset -/

@[simp] theorem resetWith_cfg (cfg : Config) : (State.resetWith cfg).cfg = cfg := rfl
@[simp] theorem resetWith_state (cfg : Config) : (State.resetWith cfg).state = .idle := rfl
@[simp] theorem resetWith_len (cfg : Config) : (State.resetWith cfg).len = 0 := rfl
@[simp] theorem resetWith_acc (cfg : Config) : (State.resetWith cfg).acc = 1#7 := rfl
@[simp] theorem resetWith_ckIdx (cfg : Config) : (State.resetWith cfg).ckIdx = 0#7 := rfl
@[simp] theorem resetWith_errCode (cfg : Config) : (State.resetWith cfg).errCode = .none := rfl
@[simp] theorem resetWith_errPos (cfg : Config) : (State.resetWith cfg).errPos = 0 := rfl
@[simp] theorem resetWith_errChar (cfg : Config) : (State.resetWith cfg).errChar = 0#8 := rfl
@[simp] theorem resetWith_buf (cfg : Config) : (State.resetWith cfg).buf = [] := rfl
@[simp] theorem resetWith_symPtr (cfg : Config) : (State.resetWith cfg).symPtr = 0 := rfl
@[simp] theorem resetWith_segPtr (cfg : Config) : (State.resetWith cfg).segPtr = 0#3 := rfl
@[simp] theorem resetWith_inputs (cfg : Config) : (State.resetWith cfg).inputs = [] := rfl
@[simp] theorem resetWith_delivered (cfg : Config) : (State.resetWith cfg).delivered = [] := rfl

@[simp] theorem reset_eq : State.reset = State.resetWith referenceConfig := rfl

end Sys2Proof.Machine
end

