-- ==== Sys2Proof/Laws/Events.lean ====
section
/-! SUPPORT. What each shared operation can do, said once: the command arms, the segment transfer and the edge. -/

namespace Sys2Proof.Machine

/-! ### Stuck states and the arms of the dispatch -/

theorem stuckFault_none_iff (s : State) :
    stuckFault s = none ↔ s.state.unused = false ∧ s.errCode.unused = false := by
  unfold stuckFault
  cases s.state.unused <;> cases s.errCode.unused <;> simp

/-- A command that the block accepts runs its arm. -/
theorem onTransfer_ready {s : State} (arm : Out) (hs : stuckFault s = none) (he : s.state ≠ .emit) :
    onTransfer s arm = arm := by
  simp [onTransfer, hs, cmdReady, he]

/-- A command presented in EMIT waits. -/
theorem onTransfer_emit {s : State} (arm : Out) (hs : stuckFault s = none) (he : s.state = .emit) :
    onTransfer s arm = .next s := by
  simp [onTransfer, hs, cmdReady, he]

/-- If a presented command answers a next state, it waited in EMIT or its arm answered. -/
theorem onTransfer_next {s t : State} {arm : Out} (h : onTransfer s arm = .next t) :
    stuckFault s = none ∧ (s.state = .emit ∧ t = s ∨ s.state ≠ .emit ∧ arm = .next t) := by
  unfold onTransfer at h
  split at h
  · simp at h
  · rename_i hs
    refine ⟨hs, ?_⟩
    by_cases he : s.state = .emit
    · simp_all [cmdReady]
    · exact .inr ⟨he, by simpa [cmdReady, he] using h⟩

/-- The three outcomes of CHAR in LOAD. -/
theorem storeChar_cases (c : Data) (s : State) :
    (s.len = s.cfg.maxLen ∧ storeChar c s = .next (raiseErr .lengthOverflow s.len c s)) ∨
    (s.len ≠ s.cfg.maxLen ∧ charAccepted c = false ∧ storeChar c s = .next (raiseErr .invalidChar s.len c s)) ∨
    (s.len < s.cfg.maxLen ∧ charAccepted c = true ∧
      storeChar c s = .next (appendSymbol (charIndex c) (accUpdate s.acc (charIndex c) (charWeight s)) s)) ∨
    (s.cfg.maxLen < s.len ∧ charAccepted c = true ∧ storeChar c s = .fault .bufAddress) := by
  unfold storeChar
  by_cases hl : s.len = s.cfg.maxLen
  · simp [hl]
  · by_cases hc : charAccepted c = true
    · by_cases hlt : s.len < s.cfg.maxLen
      · simp [hl, hc, hlt]
      · simp [hl, hc, hlt, show s.cfg.maxLen < s.len by omega]
    · simp [hl, hc]

/-- In ERROR the command is discarded; elsewhere its arm answers. -/
theorem unlessError_next {s t : State} {arm : Out} (h : unlessError s arm = .next t) :
    s.state = .error ∧ t = s ∨ s.state ≠ .error ∧ arm = .next t := by
  unfold unlessError at h
  split at h
  · exact .inl ⟨‹_›, by simpa using h.symm⟩
  · exact .inr ⟨‹_›, h⟩

/-- With no transaction open the command raises ProtocolError; else its arm answers. -/
theorem inTransaction_next {s t : State} {d : Data} {arm : Out} (h : inTransaction s d arm = .next t) :
    (s.state = .idle ∨ s.state = .done) ∧ t = raiseErr .protocol s.len d s ∨
    s.state ≠ .idle ∧ s.state ≠ .done ∧ arm = .next t := by
  unfold inTransaction at h
  split at h
  · exact .inl ⟨‹_›, by simpa using h.symm⟩
  · rename_i hn
    exact .inr ⟨fun e => hn (.inl e), fun e => hn (.inr e), h⟩

/-- A block that is not stuck and in none of the other four states is in LOAD. -/
theorem state_load_of_not {s : State} (hs : stuckFault s = none) (h1 : s.state ≠ .emit) (h2 : s.state ≠ .error)
    (h3 : s.state ≠ .idle) (h4 : s.state ≠ .done) : s.state = .load := by
  have hu := ((stuckFault_none_iff s).1 hs).1
  revert h1 h2 h3 h4 hu
  cases s.state <;> simp [Ctl.unused]

/-- If a command answers a next state, it waited or was absorbed, opened a transaction, raised an error, was an
accepted character, or closed the transaction. -/
theorem exec_cases {i : Instr} {s t : State} (h : exec i s = .next t) :
    stuckFault s = none ∧
    (t = s ∧ (s.state = .emit ∨ s.state = .error ∧ ∀ d, i ≠ .beginCmd d) ∨
     (∃ d, i = .beginCmd d) ∧ s.state ≠ .emit ∧ t = openTransaction s ∨
     (∃ code, code ≠ .none ∧ code.unused = false ∧ s.state ≠ .emit ∧ s.state ≠ .error ∧
       (∀ d, i ≠ .beginCmd d) ∧ t = raiseErr code s.len (dataOf i) s) ∨
     (∃ c, i = .charCmd c ∧ s.state = .load ∧ s.len < s.cfg.maxLen ∧ charAccepted c = true ∧
       t = appendSymbol (charIndex c) (accUpdate s.acc (charIndex c) (charWeight s)) s) ∨
     (∃ d, i = .endCmd d) ∧ s.state = .load ∧ t = closeTransaction s) := by
  cases i with
  | beginCmd d =>
    obtain ⟨hs, ⟨he, rfl⟩ | ⟨he, ha⟩⟩ := onTransfer_next h
    · exact ⟨hs, .inl ⟨rfl, .inl he⟩⟩
    · exact ⟨hs, .inr (.inl ⟨⟨d, rfl⟩, he, by simpa using ha.symm⟩)⟩
  | charCmd c =>
    obtain ⟨hs, ⟨he, rfl⟩ | ⟨he, ha⟩⟩ := onTransfer_next h
    · exact ⟨hs, .inl ⟨rfl, .inl he⟩⟩
    refine ⟨hs, ?_⟩
    obtain ⟨hr, rfl⟩ | ⟨hr, ha⟩ := unlessError_next ha
    · exact .inl ⟨rfl, .inr ⟨hr, by simp⟩⟩
    obtain ⟨-, rfl⟩ | ⟨h1, h2, ha⟩ := inTransaction_next ha
    · exact .inr (.inr (.inl ⟨.protocol, by decide, rfl, he, hr, by simp, rfl⟩))
    have hl := state_load_of_not hs he hr h1 h2
    rcases storeChar_cases c s with ⟨-, e⟩ | ⟨-, -, e⟩ | ⟨hlt, hc, e⟩ | ⟨-, -, e⟩
    · rw [e] at ha
      exact .inr (.inr (.inl ⟨.lengthOverflow, by decide, rfl, he, hr, by simp, by simpa [dataOf] using ha.symm⟩))
    · rw [e] at ha
      exact .inr (.inr (.inl ⟨.invalidChar, by decide, rfl, he, hr, by simp, by simpa [dataOf] using ha.symm⟩))
    · rw [e] at ha
      exact .inr (.inr (.inr (.inl ⟨c, rfl, hl, hlt, hc, by simpa using ha.symm⟩)))
    · simp [e] at ha
  | endCmd d =>
    obtain ⟨hs, ⟨he, rfl⟩ | ⟨he, ha⟩⟩ := onTransfer_next h
    · exact ⟨hs, .inl ⟨rfl, .inl he⟩⟩
    refine ⟨hs, ?_⟩
    obtain ⟨hr, rfl⟩ | ⟨hr, ha⟩ := unlessError_next ha
    · exact .inl ⟨rfl, .inr ⟨hr, by simp⟩⟩
    obtain ⟨-, rfl⟩ | ⟨h1, h2, ha⟩ := inTransaction_next ha
    · exact .inr (.inr (.inl ⟨.protocol, by decide, rfl, he, hr, by simp, rfl⟩))
    exact .inr (.inr (.inr (.inr ⟨⟨d, rfl⟩, state_load_of_not hs he hr h1 h2, by simpa using ha.symm⟩)))
  | rsvdCmd d =>
    obtain ⟨hs, ⟨he, rfl⟩ | ⟨he, ha⟩⟩ := onTransfer_next h
    · exact ⟨hs, .inl ⟨rfl, .inl he⟩⟩
    refine ⟨hs, ?_⟩
    obtain ⟨hr, rfl⟩ | ⟨hr, ha⟩ := unlessError_next ha
    · exact .inl ⟨rfl, .inr ⟨hr, by simp⟩⟩
    exact .inr (.inr (.inl ⟨.illegalCmd, by decide, rfl, he, hr, by simp, by simpa [dataOf] using ha.symm⟩))

/-! ### Reads -/

theorem romRead_ok_iff (s : State) (a : SymIdx) (w : RomWord) :
    romRead s a = .ok w ↔ romWord s.cfg a.toNat = some w := by
  unfold romRead
  cases romWord s.cfg a.toNat <;> simp

theorem symbolAt_ok_iff (s : State) (k : Nat) (w : RomWord) :
    symbolAt s k = .ok w ↔ ∃ a, patternAt s k = .ok a ∧ romRead s a = .ok w := by
  unfold symbolAt
  cases patternAt s k <;> simp

/-- The four selections of R171, each under its own condition. -/
theorem patternAt_cases (s : State) (k : Nat) :
    (k = 0 ∧ patternAt s k = .ok startB) ∨
    (1 ≤ k ∧ k ≤ s.len ∧ patternAt s k = bufRead s (k - 1)) ∨
    (k = s.len + 1 ∧ patternAt s k = .ok s.ckIdx) ∨
    (s.len + 2 ≤ k ∧ patternAt s k = .ok stopSym) := by
  unfold patternAt
  by_cases h0 : k = 0
  · simp [h0]
  · by_cases h1 : k ≤ s.len
    · simp [h0, h1, show 1 ≤ k by omega]
    · by_cases h2 : k = s.len + 1
      · simp [h2]
      · simp [h0, h1, h2, show s.len + 2 ≤ k by omega]

/-! ### Ranges and answers -/

/-- The code of an accepted character lies in 32..126 (R93). -/
theorem charAccepted_bounds {c : Data} (h : charAccepted c = true) : 32 ≤ c.toNat ∧ c.toNat ≤ 126 := by
  unfold charAccepted charCode charLo charHi at h
  rw [Bool.and_eq_true] at h
  exact ⟨of_decide_eq_true h.1, of_decide_eq_true h.2⟩

/-- The symbol index of an accepted character is its code less 32 (R93). -/
theorem charIndex_toNat {c : Data} (h : charAccepted c = true) : (charIndex c).toNat = c.toNat - 32 := by
  have := charAccepted_bounds h
  simp only [charIndex, charCode, charLo, BitVec.toNat_ofNat]
  omega

/-- The accumulator update is the exact sum modulo 103 (R152). -/
theorem accUpdate_toNat (acc : BitVec 7) (idx : SymIdx) (weight : Nat) :
    (accUpdate acc idx weight).toNat = (acc.toNat + idx.toNat * weight) % 103 := by
  simp only [accUpdate, ckMod, BitVec.toNat_ofNat]
  have := Nat.mod_lt (acc.toNat + idx.toNat * weight) (show 0 < 103 by decide)
  omega

/-- The pattern sequence depends on the configuration, BUF, `len` and `ck_idx` only. -/
theorem symbolAt_congr {s t : State} (hc : t.cfg = s.cfg) (hb : t.buf = s.buf) (hl : t.len = s.len)
    (hk : t.ckIdx = s.ckIdx) (k : Nat) : symbolAt t k = symbolAt s k := by
  simp [symbolAt, patternAt, bufRead, romRead, hc, hb, hl, hk]

/-- With a filled BUF and a checksum index in range, every position of the pattern sequence is readable. -/
theorem symbolAt_answers {s : State} (hw : s.cfg.wellFormed = true) (hf : Filled s) (hck : s.ckIdx.toNat ≤ 102)
    (k : Nat) : ∃ w, symbolAt s k = .ok w := by
  have hsym : ∀ a : SymIdx, a.toNat ≤ 105 → ∃ w, romRead s a = .ok w := fun a ha => by
    obtain ⟨w, h, -⟩ := romWord_symbol hw ha
    exact ⟨w, (romRead_ok_iff _ _ _).2 h⟩
  rcases patternAt_cases s k with ⟨-, e⟩ | ⟨h1, h2, e⟩ | ⟨-, e⟩ | ⟨-, e⟩
  · obtain ⟨w, h⟩ := hsym startB (by decide)
    exact ⟨w, (symbolAt_ok_iff ..).2 ⟨_, e, h⟩⟩
  · obtain ⟨v, hv, hle⟩ := hf (k - 1) (by omega)
    obtain ⟨w, h⟩ := hsym v (by omega)
    exact ⟨w, (symbolAt_ok_iff ..).2 ⟨v, by rw [e, hv], h⟩⟩
  · obtain ⟨w, h⟩ := hsym s.ckIdx (by omega)
    exact ⟨w, (symbolAt_ok_iff ..).2 ⟨_, e, h⟩⟩
  · obtain ⟨w, h, -⟩ := romWord_stop hw
    exact ⟨w, (symbolAt_ok_iff ..).2 ⟨_, e, (romRead_ok_iff ..).2 h⟩⟩

/-! ### The segment transfer -/

/-- The three ways a segment transfer moves the pointers (R173). -/
theorem advance_cases (s : State) (w : RomWord) :
    (isLast s w = true ∧ advance s w = finish (setPointers 0 0#3 s)) ∨
    (isLast s w = false ∧ endsSymbol s w = true ∧ advance s w = setPointers (s.symPtr + 1) 0#3 s) ∨
    (isLast s w = false ∧ endsSymbol s w = false ∧ advance s w = setPointers s.symPtr (s.segPtr + 1#3) s) := by
  unfold advance
  cases isLast s w <;> cases endsSymbol s w <;> simp

theorem currentSegment_ok_iff (s : State) (w : RomWord) :
    currentSegment s = .ok w ↔ currentSymbol s = .ok w ∧ s.segPtr.toNat < romLen w := by
  unfold currentSegment
  cases h : currentSymbol s with
  | error f => simp
  | ok u =>
    by_cases hu : s.segPtr.toNat < romLen u
    · simp only [hu, if_true, Except.ok.injEq]
      exact ⟨fun e => ⟨e, e ▸ hu⟩, fun e => e.1⟩
    · simp only [hu, if_false, Except.ok.injEq, reduceCtorEq, false_iff, not_and]
      rintro rfl
      exact hu

/-- If a segment transfer answers a next state, the sink took the current segment word. -/
theorem segOut_next {s t : State} (h : segOut s = .next t) :
    ∃ w, currentSegment s = .ok w ∧ t = emitWord (segmentWord s w) (advance s w) := by
  unfold segOut at h
  split at h
  · rename_i w hw
    simp only [Host.Outcome.next.injEq] at h
    exact ⟨w, hw, h.symm⟩
  · simp at h

theorem segOut_ok {s : State} {w : RomWord} (h : currentSegment s = .ok w) :
    segOut s = .next (emitWord (segmentWord s w) (advance s w)) := by
  simp [segOut, h]

/-! ### The edge -/

/-- If a step answers a next state, it was a reset, a command transfer, a segment transfer or an edge with
none of them. -/
theorem step_cases {s t : State} (h : step s = .next t) :
    s.cfg.wellFormed = true ∧
    ((pins s).rst = true ∧ t = resetRegisters (nextEdge s) ∨
     (pins s).rst = false ∧ stuckFault s = none ∧
      (s.state ≠ .emit ∧ (pins s).cmdValid = true ∧ exec (decode (pins s).cmdWord) (nextEdge s) = .next t ∨
       s.state = .emit ∧ (pins s).segReady = true ∧ segOut (nextEdge s) = .next t ∨
       ((pins s).cmdValid && cmdReady s) = false ∧ (segValid s && (pins s).segReady) = false ∧ t = nextEdge s)) := by
  unfold step clockEdge edgeEvent at h
  by_cases hw : s.cfg.wellFormed = true
  · refine ⟨hw, ?_⟩
    simp only [hw, if_true] at h
    by_cases hr : (pins s).rst = true
    · simp only [hr, if_true, Host.Outcome.next.injEq] at h
      exact .inl ⟨hr, h.symm⟩
    · simp only [hr, Bool.false_eq_true, if_false] at h
      refine .inr ⟨by simpa using hr, ?_⟩
      split at h
      · simp at h
      · rename_i hs
        refine ⟨hs, ?_⟩
        split at h
        · rename_i hc
          simp [cmdReady] at hc
          exact .inl ⟨hc.2, hc.1, h⟩
        · rename_i hc
          split at h
          · rename_i hg
            simp [segValid] at hg
            exact .inr (.inl ⟨hg.1, hg.2, h⟩)
          · rename_i hg
            simp only [Host.Outcome.next.injEq] at h
            exact .inr (.inr ⟨by simpa using hc, by simpa using hg, h.symm⟩)
  · simp [hw] at h

end Sys2Proof.Machine
end

