-- ==== Sys2Proof/Laws/Memory.lean ====
section
/-! SUPPORT. The laws of BUF: reading what was written, and the canonical form. -/

namespace Sys2Proof.Machine

@[simp] theorem Memory.get_nil (k : Nat) : Memory.get [] k = none := rfl

theorem Memory.get_put_same (m : Memory) (k : Nat) (v : SymIdx) :
    Memory.get (Memory.put m k v) k = some v := by
  induction m with
  | nil => simp [Memory.put, Memory.get]
  | cons x rest ih =>
    obtain ⟨a, u⟩ := x
    unfold Memory.put
    split
    · simp [Memory.get]
    · split
      · simp [Memory.get]
      · simpa [Memory.get, Ne.symm ‹¬k = a›] using ih

theorem Memory.get_put_other (m : Memory) {k j : Nat} (v : SymIdx) (h : j ≠ k) :
    Memory.get (Memory.put m k v) j = Memory.get m j := by
  induction m with
  | nil => simp [Memory.put, Memory.get, Ne.symm h]
  | cons x rest ih =>
    obtain ⟨a, u⟩ := x
    unfold Memory.put
    split
    · simp [Memory.get, Ne.symm h]
    · split
      · subst ‹k = a›
        simp [Memory.get, Ne.symm h]
      · simp [Memory.get, ih]

/-- Every address of a list in canonical form after its first entry is above that entry's. -/
theorem Memory.wf_cons_iff (x : Nat × SymIdx) (m : Memory) :
    Memory.wf (x :: m) = true ↔ (∀ y, m.head? = some y → x.1 < y.1) ∧ Memory.wf m = true := by
  cases m with
  | nil => simp [Memory.wf]
  | cons y rest => simp [Memory.wf]

theorem Memory.put_head (m : Memory) (k : Nat) (v : SymIdx) (y : Nat × SymIdx)
    (h : (Memory.put m k v).head? = some y) : y.1 = k ∨ m.head?.map Prod.fst = some y.1 := by
  cases m with
  | nil => simp_all [Memory.put, eq_comm]
  | cons x rest =>
    unfold Memory.put at h
    split at h
    · simp_all [eq_comm]
    · split at h <;> simp_all [eq_comm]

/-- A write keeps the canonical form. -/
theorem Memory.wf_put (m : Memory) (k : Nat) (v : SymIdx) (h : Memory.wf m = true) :
    Memory.wf (Memory.put m k v) = true := by
  induction m with
  | nil => rfl
  | cons x rest ih =>
    obtain ⟨hx, hr⟩ := (Memory.wf_cons_iff x rest).1 h
    obtain ⟨a, u⟩ := x
    unfold Memory.put
    split
    · exact (Memory.wf_cons_iff _ _).2 ⟨by simpa using ‹k < a›, h⟩
    · split
      · subst ‹k = a›
        exact (Memory.wf_cons_iff _ _).2 ⟨hx, hr⟩
      · refine (Memory.wf_cons_iff _ _).2 ⟨fun y hy => ?_, ih hr⟩
        rcases Memory.put_head _ _ _ _ hy with rfl | hm
        · simp only at *
          omega
        · obtain ⟨z, hz, hzy⟩ := Option.map_eq_some_iff.1 hm
          simpa [hzy] using hx z hz

/-- The reset state's BUF is in canonical form. -/
theorem resetWith_buf_wf (cfg : Config) : Memory.wf (State.resetWith cfg).buf = true := rfl

/-- What `bufRead` can answer. -/
theorem bufRead_ok_iff (s : State) (k : Nat) (v : SymIdx) :
    bufRead s k = .ok v ↔ k < s.cfg.maxLen ∧ Memory.get s.buf k = some v := by
  unfold bufRead
  split
  · cases h : Memory.get s.buf k <;> simp [*]
  · simp [*]

theorem bufRead_congr {s t : State} (hc : t.cfg = s.cfg) (k : Nat)
    (hb : Memory.get t.buf k = Memory.get s.buf k) : bufRead t k = bufRead s k := by
  simp [bufRead, hc, hb]

end Sys2Proof.Machine
end

