-- ==== Sys2Proof/Laws/PerInstr.lean ====
section
/-! SUPPORT. Statements about every command, one lemma per constructor: its encoding selects its own row of the opcode table and no other (30_encoding.md R91). -/

namespace Sys2Proof.Laws.TableRow

/-- The words of the command select exactly the table rows of its mnemonic. -/
def Statement (i : Instr) : Prop :=
  (opcodeTable.filter (·.selects (encode i))).map (·.mnemonic) = [mnemonicOf i]

theorem beginCmd (data : Data) : Statement (.beginCmd data) := by
  revert data; unfold Statement; decide +kernel

theorem charCmd (c : Data) : Statement (.charCmd c) := by
  revert c; unfold Statement; decide +kernel

theorem endCmd (data : Data) : Statement (.endCmd data) := by
  revert data; unfold Statement; decide +kernel

theorem rsvdCmd (d : Data) : Statement (.rsvdCmd d) := by
  revert d; unfold Statement; decide +kernel

end Sys2Proof.Laws.TableRow
end

