-- ==== Sys2Proof/Laws/Reset.lean ====
section
/-! SUPPORT. The reference ROM passes the checks of 20_memory.md R62, for any MAX_LEN of at least 1: the kernel evaluates them once here. -/

namespace Sys2Proof.Machine

/-- R63: 'They pass WF1 to WF4'. -/
theorem referenceRom_ok :
    (romShapeOk referenceRom && wf1 referenceRom && wf2 referenceRom && wf4 referenceRom) = true := by
  decide +kernel

theorem referenceConfig_wellFormed : referenceConfig.wellFormed = true := by
  have h := referenceRom_ok
  simp_all [Config.wellFormed, configOk, referenceConfig, defaultMaxLen]

theorem withReferenceRom_wellFormed {n : Nat} (hn : 1 ≤ n) :
    (⟨n, referenceRom⟩ : Config).wellFormed = true := by
  have h := referenceRom_ok
  simp_all [Config.wellFormed, configOk]

end Sys2Proof.Machine
end

