-- ==== Sys2Proof/Tests/Slice0.lean ====
section
/-! SUPPORT. Tests against the spec's own words and vectors, and one witness for the hypotheses of every statement that has some. -/

open Sys2Proof Sys2Proof.Machine

namespace Sys2Proof.Tests

/-! ### Helpers: small states -/

/-- The next state of an outcome. -/
def nextOf : Out → Option State
  | .next t => some t
  | _ => none

/-- MAX_LEN = 2, the reference ROM (95_test_vectors.md P4). -/
def small : Config := ⟨2, referenceRom⟩

/-- A block in LOAD after `BEGIN; CHAR 'A'`, MAX_LEN = 2. -/
def loadA : State :=
  { State.resetWith small with state := .load, len := 1, acc := 34#7, buf := [(0, 33#7)] }

/-- A block in LOAD whose BUF is full, after `BEGIN; CHAR 'a'; CHAR 'b'`, MAX_LEN = 2. -/
def fullAB : State :=
  { State.resetWith small with state := .load, len := 2, acc := 95#7, buf := [(0, 65#7), (1, 66#7)] }

/-- A block in EMIT after `BEGIN; CHAR 'A'; END` (V-P2). -/
def emitA : State :=
  { loadA with state := .emit, ckIdx := 34#7 }

/-- The same before the last segment (V-P2 row 24). -/
def emitLast : State :=
  { emitA with symPtr := 3, segPtr := 6#3 }

/-- A block in DONE after the output of "A". -/
def doneA : State :=
  { loadA with state := .done, ckIdx := 34#7 }

/-- A block in ERROR, PROTOCOL with 'x' (V-E2 row 13). -/
def errorX : State :=
  { State.resetWith small with state := .error, errCode := .protocol, errChar := 0x78#8 }

/-- An edge at which a command is presented. -/
def cmdEdge (w : CmdWord) : Pins := ⟨false, true, w, false⟩

/-- An edge at which the sink accepts. -/
def segEdge : Pins := ⟨false, false, 0#10, true⟩

/-- An edge at which reset is asserted together with everything else. -/
def rstEdge : Pins := ⟨true, true, 0x141#10, true⟩

theorem small_ok : small.wellFormed = true := withReferenceRom_wellFormed (by decide)

/-! ### Well-formedness: an ill-formed configuration for each check (V-W3) -/

theorem test_wf_maxLen_zero : configOk ⟨0, referenceRom⟩ = false := by decide

theorem test_wf_short_rom : romShapeOk (referenceRom.take 106) = false := by decide +kernel

/-- V-W3 (a), WF1: the widths of 0x0000 sum to 6. -/
theorem test_wf1_sum : symbolOk 0x0000#15 = false := by decide

/-- V-W2, WF1: bits [13:12] of 0x1551 are not 0. -/
theorem test_wf1_bits : symbolOk 0x1551#15 = false := by decide

/-- WF1: a seven-segment word is no symbol of addresses 0..105. -/
theorem test_wf1_n7 : symbolOk 0x5029#15 = false := by decide

/-- V-W3 (b), WF2: 0x1029 has n7 = 0. -/
theorem test_wf2_n7 : stopOk 0x1029#15 = false := by decide

/-- V-W3 (c), WF2: the widths of 0x6029 sum to 14 and the seventh is 3. -/
theorem test_wf2_sum : stopOk 0x6029#15 = false := by decide

/-- V-W3 (d), WF4: two equal width sequences. -/
theorem test_wf4_equal : allDistinct (romWidths 0x0551#15 :: [romWidths 0x0515#15, romWidths 0x0551#15]) = false := by
  decide

/-- V-W3 (e), WF5: address 107 may hold anything. -/
theorem test_wf5_free : (⟨255, referenceRom ++ [0x7FFF#15]⟩ : Config).wellFormed = true := by decide +kernel

/-- R102: 256 is refused by the assembler. -/
theorem test_literal_too_large : stmtWords (.charStmt 256) = .error .literalTooLarge := by decide

/-! ### Decoding: words written out from 30_encoding.md R90, R91 -/

theorem test_decode_begin : decode 0b0011111111#10 = .beginCmd 0xFF#8 := by decide

theorem test_decode_char : decode 0b0101000001#10 = .charCmd 65#8 := by decide

theorem test_decode_end : decode 0b1001010101#10 = .endCmd 0x55#8 := by decide

theorem test_decode_rsvd : decode 0b1110101011#10 = .rsvdCmd 0xAB#8 := by decide

theorem test_decode_eleven_bits : decodeNat 1024 = .error .wordTooWide := by decide

/-- V-W2: STOP has seven segments, 0x1551 ignores f_6. -/
theorem test_rom_stop : romWidths 0x5029#15 = [2, 3, 3, 1, 1, 1, 2] := by decide

theorem test_rom_f6_ignored : romWidths 0x1551#15 = [2, 1, 2, 2, 2, 2] := by decide

/-- R97: START B and STOP as the rule writes them. -/
theorem test_rom_pack : romWordOf [2, 1, 1, 2, 1, 4] = 0x0C41#15 ∧ romWordOf [2, 3, 3, 1, 1, 1, 2] = 0x5029#15 := by
  decide

/-! ### The assembler (R102 to R104) -/

theorem test_asm_encode :
    lineWords [69, 110, 99, 111, 68, 69, 32, 34, 72, 105, 34, 32, 59, 120] =
      .ok [0x000#10, 0x148#10, 0x169#10, 0x200#10] := by decide +kernel

/-- A hexadecimal escape and a `;` inside quotes. -/
theorem test_asm_literals :
    literal [39, 92, 120, 52, 49, 39] = .ok 65 ∧ lineWords [67, 72, 65, 82, 32, 39, 59, 39] = .ok [0x13B#10] := by
  decide +kernel

/-! ### Commands (V-E2) -/

/-- Row 1. -/
theorem test_begin_from_reset :
    (nextOf (exec (.beginCmd 0#8) (State.resetWith small))).map (fun t => (t.state, t.len, t.acc)) =
      some (.load, 0, 1#7) := by decide

/-- Row 21: BEGIN clears the error. -/
theorem test_begin_clears_error :
    (nextOf (exec (.beginCmd 0#8) errorX)).map (fun t => (t.state, t.errCode, t.errChar)) =
      some (.load, .none, 0#8) := by decide

/-- Row 5: `BEGIN; CHAR 'A'`, then CHAR 'B'. -/
theorem test_char_second :
    (nextOf (exec (.charCmd 66#8) loadA)).map (fun t => (t.len, t.acc, t.buf)) =
      some (2, 102#7, [(0, 33#7), (1, 34#7)]) := by decide

/-- Row 11: LengthOverflow is tested before InvalidCharacter. -/
theorem test_char_overflow_first :
    (nextOf (exec (.charCmd 7#8) fullAB)).map (fun t => (t.state, t.errCode, t.errPos, t.errChar, t.acc)) =
      some (.error, .lengthOverflow, 2, 7#8, 95#7) := by decide

/-- Row 8: 127 is rejected (90_conflicts.md C3). -/
theorem test_char_del_rejected :
    (nextOf (exec (.charCmd 127#8) loadA)).map (fun t => (t.state, t.errCode, t.errPos, t.len)) =
      some (.error, .invalidChar, 1, 1) := by decide

/-- Row 24: END takes the checksum whatever its data bits. -/
theorem test_end_in_load :
    (nextOf (exec (.endCmd 0xAA#8) loadA)).map (fun t => (t.state, t.ckIdx, t.errCode)) =
      some (.emit, 34#7, .none) := by decide

/-- Row 16 with END: in DONE it raises ProtocolError at `len` and keeps `ck_idx`. -/
theorem test_end_in_done :
    (nextOf (exec (.endCmd 0x55#8) doneA)).map (fun t => (t.state, t.errCode, t.errPos, t.errChar, t.ckIdx)) =
      some (.error, .protocol, 1, 0x55#8, 34#7) := by decide

/-- Row 18. -/
theorem test_rsvd_in_load :
    (nextOf (exec (.rsvdCmd 0xAB#8) loadA)).map (fun t => (t.errCode, t.errPos, t.errChar, t.acc)) =
      some (.illegalCmd, 1, 0xAB#8, 34#7) := by decide

/-- Row 19: absorbed in ERROR. -/
theorem test_rsvd_absorbed :
    (nextOf (exec (.rsvdCmd 0xAB#8) errorX)).map (fun t => (t.errCode, t.errChar)) = some (.protocol, 0x78#8) := by
  decide

/-! ### The segment transfer and the edge -/

/-- V-P2 row 0: the first word of every output with the reference ROM is 0A. -/
theorem test_first_segment :
    (nextOf (segOut emitA)).map (fun t => (t.delivered, t.symPtr, t.segPtr)) = some ([0x0A#5], 0, 1#3) := by
  decide

/-- V-P2 row 24: the last word is 1A, the pointers return to 0 and the state is DONE. -/
theorem test_last_segment :
    (nextOf (segOut emitLast)).map (fun t => (t.delivered, t.symPtr, t.segPtr, t.state)) =
      some ([0x1A#5], 0, 0#3, .done) := by decide

/-- V-R2: reset wins over a command transfer. -/
theorem test_reset_wins :
    (nextOf (edgeEvent { loadA with inputs := [rstEdge] })).map (fun t => (t.state, t.len, t.acc)) =
      some (.idle, 0, 1#7) := by decide

/-- V-E3: a command presented in EMIT is not accepted while the segment transfer is. -/
theorem test_command_waits_in_emit :
    (nextOf (edgeEvent { emitLast with inputs := [⟨false, true, 0x141#10, true⟩] })).map
      (fun t => (t.state, t.errCode)) = some (.done, .none) := by decide

/-- 30_encoding.md R99: an unused encoding of `state` is stuck. -/
theorem test_unused_state_stuck :
    nextOf (edgeEvent { loadA with state := .unused6, inputs := [segEdge] }) = none := by decide

/-- The host's placement of a command: END 0x55 as the first command after reset raises ProtocolError (row 14). -/
theorem test_fetch_word :
    (nextOf (step (State.reset.withFetchWord 16 0x255))).map (fun t => (t.errCode, t.errChar)) =
      some (.protocol, 0x55#8) := by decide +kernel

/-! ### Reference functions (V-C, V-X) -/

/-- V-C10: the 104th character has weight 104, which is 1 mod 103. -/
theorem test_checksum_weights_above_103 :
    refChecksum (List.replicate 103 33#8) = 1 ∧ refChecksum (List.replicate 104 33#8) = 2 := by decide +kernel

/-- V-X2, "AB" with the reference ROM. -/
theorem test_output_AB :
    refDigits small [65, 66] =
      [2, 1, 1, 2, 1, 4, 1, 1, 1, 3, 2, 3, 1, 3, 1, 1, 2, 3, 4, 1, 1, 1, 3, 1, 2, 3, 3, 1, 1, 1, 2] := by
  decide +kernel

/-! ### Witnesses: the hypotheses of each statement are met by a concrete state and operands -/

/-- An edge at which nothing happens, with levels on the other ports. -/
def idleEdge : Pins := ⟨false, false, 0x200#10, false⟩

/-- The state with the edges listed. -/
def withEdges (es : List Pins) (s : State) : State := { s with inputs := es }

/-- A step of a state with MAX_LEN = 2 is its event. -/
theorem step_small {s : State} (h : s.cfg = small) : step s = edgeEvent s := by
  unfold step clockEdge
  rw [h, if_pos small_ok]

theorem inv_emitA (es : List Pins) : Inv (withEdges es emitA) where
  config := small_ok
  errIff := (by decide : emitA.errCode ≠ .none ↔ emitA.state = .error)
  errProduced := rfl
  lenLe := (by decide : emitA.len ≤ emitA.cfg.maxLen)
  accLe := (by decide : emitA.acc.toNat ≤ 102)
  ckLe := (by decide : emitA.ckIdx.toNat ≤ 102)
  stateUsed := rfl
  filled := fun _ k hk => ⟨33#7, by obtain rfl : k = 0 := Nat.lt_one_iff.1 hk; rfl, by decide⟩
  pointers := fun _ =>
    have h : emitA.symPtr ≤ emitA.len + 2 ∧ currentSymbol emitA = .ok 0x0C41#15 ∧
        emitA.segPtr.toNat < romLen 0x0C41#15 := by decide +kernel
    ⟨h.1, _, h.2⟩
  pointersRest := fun h => absurd rfl h
  errPosLe := (by decide : emitA.errPos ≤ emitA.cfg.maxLen)
  bufCanonical := rfl
  bufEntries := fun k v h => by
    simp only [withEdges, emitA, loadA, Memory.get] at h
    split at h
    · obtain rfl := ‹0 = k›
      simp only [Option.some.injEq] at h
      subst h
      exact (by decide : 0 < emitA.cfg.maxLen ∧ (33#7).toNat ≤ 94)
    · simp at h

theorem inv_emitLast (es : List Pins) : Inv (withEdges es emitLast) :=
  { inv_emitA es with
    pointers := fun _ =>
      have h : emitLast.symPtr ≤ emitLast.len + 2 ∧ currentSymbol emitLast = .ok 0x5029#15 ∧
          emitLast.segPtr.toNat < romLen 0x5029#15 := by decide +kernel
      ⟨h.1, _, h.2⟩
    pointersRest := fun h => absurd rfl h }

theorem inv_doneA (es : List Pins) : Inv (withEdges es doneA) :=
  { inv_emitA es with
    errIff := (by decide : doneA.errCode ≠ .none ↔ doneA.state = .error)
    stateUsed := rfl
    filled := fun _ => (inv_emitA es).filled (.inr (.inl rfl))
    pointers := fun h => nomatch h
    pointersRest := fun _ => ⟨rfl, rfl⟩ }

theorem witness_DecodeEncodeRoundTrip : (Instr.charCmd 255#8).wellFormed = true := by decide

theorem witness_RomWordHoldsItsWidths :
    ([1, 1, 1, 2, 2, 4].length = 6 ∧ ∀ x ∈ [1, 1, 1, 2, 2, 4], 1 ≤ x ∧ x ≤ 4) ∧
    ([2, 3, 3, 1, 1, 1, 2].length = 7 ∧ ∀ x ∈ [2, 3, 3, 1, 1, 1, 2], 1 ≤ x ∧ x ≤ 4) := by decide

theorem witness_AssemblerStatementWords : 255 < 256 ∧ 256 ≤ 256 := by decide

theorem witness_StrTextAssembles (c : Char) (h : c ∈ [' ', ';', Char.ofNat 126]) :
    32 ≤ c.toNat ∧ c.toNat ≤ 126 ∧ c.toNat ≠ 34 ∧ c.toNat ≠ 92 := by
  simp only [List.mem_cons, List.not_mem_nil, or_false] at h
  rcases h with rfl | rfl | rfl <;> decide

theorem witness_WellFormednessChecks : small.wellFormed = true ∧ configOk ⟨0, referenceRom⟩ = false :=
  ⟨small_ok, by decide⟩

/-- MAX_LEN = 0; a ROM that fails WF1, one that fails WF2 and one that fails WF4 (V-W3 (a), (b), (d)); a list one word
short. -/
theorem witness_IllFormedConfigRefused :
    (State.resetWith ⟨0, referenceRom⟩).cfg.wellFormed = false ∧
    (State.resetWith ⟨255, referenceRom.set 0 0x0000#15⟩).cfg.wellFormed = false ∧
    (State.resetWith ⟨255, referenceRom.set 106 0x1029#15⟩).cfg.wellFormed = false ∧
    (State.resetWith ⟨255, referenceRom.set 1 0x0551#15⟩).cfg.wellFormed = false ∧
    (State.resetWith ⟨255, referenceRom.take 106⟩).cfg.wellFormed = false := by decide +kernel

theorem witness_StepKeepsConfiguration :
    step (withEdges [idleEdge] loadA) = .next (nextEdge (withEdges [idleEdge] loadA)) :=
  (step_small rfl).trans rfl

theorem witness_StepRunsPresentedCommand (s : State) (h : s ∈ [State.resetWith small, loadA, doneA, errorX]) :
    (withEdges [cmdEdge 0x141#10] s).cfg.wellFormed = true ∧ ready (withEdges [cmdEdge 0x141#10] s) = true ∧
      (cmdEdge 0x141#10).rst = false ∧ (cmdEdge 0x141#10).cmdValid = true := by
  simp only [List.mem_cons, List.not_mem_nil, or_false] at h
  rcases h with rfl | rfl | rfl | rfl <;> exact ⟨small_ok, by decide, rfl, rfl⟩

theorem witness_ResetEvent :
    (withEdges [rstEdge] emitA).cfg.wellFormed = true ∧ (withEdges [rstEdge] emitA).inputs = rstEdge :: [] ∧
      rstEdge.rst = true := ⟨small_ok, rfl, rfl⟩

theorem witness_OneEventPerEdge : rstEdge.rst = true ∧ (⟨true, false, 0#10, false⟩ : Pins).rst = true := by decide

theorem witness_QuietEdge :
    (withEdges [segEdge] loadA).cfg.wellFormed = true ∧ stuckFault (withEdges [segEdge] loadA) = none ∧
      segEdge.rst = false ∧ (segEdge.cmdValid && cmdReady (withEdges [segEdge] loadA)) = false ∧
      (segValid (withEdges [segEdge] loadA) && segEdge.segReady) = false :=
  ⟨small_ok, by decide, rfl, by decide, by decide⟩

theorem witness_SegmentStability :
    (withEdges [cmdEdge 0#10] emitA).cfg.wellFormed = true ∧ emitA.errCode.unused = false ∧
      segValid (withEdges [cmdEdge 0#10] emitA) = true ∧ (cmdEdge 0#10).rst = false ∧
      (cmdEdge 0#10).segReady = false := ⟨small_ok, rfl, by decide, rfl, rfl⟩

theorem witness_CommandPortIdleInEmit :
    emitA.state = .emit ∧ (cmdEdge 0#10).rst = idleEdge.rst ∧ (cmdEdge 0#10).segReady = idleEdge.segReady := by decide

theorem witness_WaitingCommandRunsAfterOutput :
    Inv (withEdges [⟨false, true, 0x141#10, true⟩, cmdEdge 0x000#10] emitLast) ∧ emitLast.state = .emit ∧
      currentSymbol emitLast = .ok 0x5029#15 ∧ isLast emitLast 0x5029#15 = true ∧
      (cmdEdge 0x000#10).rst = false ∧ (cmdEdge 0x000#10).cmdValid = true :=
  ⟨inv_emitLast _, rfl, by decide +kernel, by decide, rfl, rfl⟩

theorem witness_UnusedEncodingsAreStuck :
    ({ loadA with state := .unused5 } : State).state.unused = true ∧
    ({ loadA with state := .unused7, inputs := [segEdge] } : State).cfg.wellFormed = true ∧
    ({ loadA with errCode := .unused5 } : State).state.unused = false ∧
    ({ loadA with errCode := .unused5 } : State).errCode.unused = true := ⟨rfl, small_ok, rfl, rfl⟩

theorem witness_BeginOpensTransaction :
    (ready (State.resetWith small) = true ∧ ready loadA = true ∧ ready doneA = true ∧ ready errorX = true) ∧
    (stuckFault emitA = none ∧ emitA.state = .emit) := by decide

/-- The smallest and the largest accepted code, with one place left. -/
theorem witness_CharStoresSymbol :
    (loadA.state = .load ∧ loadA.errCode.unused = false ∧ loadA.len < loadA.cfg.maxLen) ∧
    (32 ≤ (32#8).toNat ∧ (32#8).toNat ≤ 126) ∧ (32 ≤ (126#8).toNat ∧ (126#8).toNat ≤ 126) := by decide

/-- A full BUF; the codes next to the accepted range; IDLE and DONE. -/
theorem witness_CharRaisesErrors :
    (fullAB.state = .load ∧ fullAB.errCode.unused = false ∧ fullAB.len = fullAB.cfg.maxLen) ∧
    (loadA.state = .load ∧ loadA.len < loadA.cfg.maxLen ∧ (31#8).toNat < 32 ∧ 126 < (127#8).toNat) ∧
    ((State.resetWith small).state = .idle ∧ doneA.state = .done ∧ doneA.errCode.unused = false) := by decide

theorem witness_EndStartsStream : loadA.state = .load ∧ loadA.errCode.unused = false := by decide

theorem witness_EndOutsideTransaction :
    ((State.resetWith small).state = .idle ∧ (State.resetWith small).errCode.unused = false) ∧
    (doneA.state = .done ∧ doneA.errCode.unused = false) := by decide

theorem witness_RsvdRaisesIllegalCommand :
    ((State.resetWith small).state = .idle ∧ loadA.state = .load ∧ doneA.state = .done ∧ doneA.errCode.unused = false) ∧
    (errorX.state = .error ∧ errorX.errCode.unused = false) ∧ (emitA.state = .emit ∧ emitA.errCode.unused = false) := by
  decide

theorem witness_DispatchOrder :
    (ready errorX = true ∧ ready loadA = true) ∧ (emitA.state = .emit ∧ emitA.errCode.unused = false) := by decide

theorem witness_ErrorEntry :
    exec (.rsvdCmd 0xAB#8) loadA = .next (raiseErr .illegalCmd 1 0xAB#8 loadA) ∧ loadA.state ≠ .error ∧
      (raiseErr .illegalCmd 1 0xAB#8 loadA).state = .error := ⟨rfl, by decide, rfl⟩

theorem witness_ErrorCauses :
    (ready fullAB = true ∧ fullAB.state ≠ .error ∧ fullAB.len ≤ fullAB.cfg.maxLen) ∧
    (∃ t, nextOf (segOut emitA) = some t) ∧
    (step (withEdges [cmdEdge 0x17F#10] loadA) = .next (raiseErr .invalidChar 1 127#8 (withEdges [] loadA)) ∧
      loadA.state ≠ .error) :=
  ⟨by decide, ⟨emitWord 0x0A#5 (setPointers 0 1#3 emitA), by rfl⟩, (step_small rfl).trans rfl, by decide⟩

theorem witness_ErrorAbsorbsCommands : errorX.state = .error ∧ errorX.errCode.unused = false := by decide

theorem witness_IgnoredDataBits :
    (loadA.state ≠ .idle ∧ loadA.state ≠ .done) ∧ (doneA.state = .done ∧ doneA.errCode.unused = false) := by decide

theorem witness_CharFrame :
    exec (.charCmd 66#8) loadA = .next (appendSymbol 34#7 102#7 loadA) ∧
    (exec (.charCmd 31#8) loadA = .next (raiseErr .invalidChar 1 31#8 loadA) ∧
      (raiseErr .invalidChar 1 31#8 loadA).state = .error) := ⟨by rfl, by rfl, rfl⟩

theorem witness_BeginEndRsvdFrame :
    (exec (.beginCmd 0#8) emitA = .next emitA ∧ exec (.beginCmd 0#8) errorX = .next (openTransaction errorX)) ∧
    (exec (.endCmd 0#8) loadA = .next (closeTransaction loadA) ∧ exec (.endCmd 0#8) errorX = .next errorX) ∧
    (exec (.rsvdCmd 0#8) errorX = .next errorX) := ⟨⟨rfl, rfl⟩, ⟨rfl, rfl⟩, rfl⟩

theorem witness_BeginForgetsThePast : ready fullAB = true ∧ ready errorX = true := by decide

theorem witness_AccumulatorUpdate :
    loadA.state = .load ∧ loadA.errCode.unused = false ∧ loadA.acc.toNat ≤ 102 ∧ loadA.len < loadA.cfg.maxLen ∧
      charAccepted 126#8 = true := by decide

theorem witness_ChecksumOfTransaction : ready errorX = true ∧ acceptable errorX.cfg [65#8, 126#8] = true := by decide

theorem witness_PatternSequence :
    Inv (withEdges [] emitA) ∧ Inv (withEdges [] doneA) ∧ emitA.state = .emit ∧ doneA.state = .done ∧
      3 ≤ emitA.len + 2 := ⟨inv_emitA _, inv_doneA _, rfl, rfl, by decide⟩

/-- A segment in the middle, and the last one. -/
theorem witness_SegmentTransfer :
    (Inv (withEdges [] emitA) ∧ (withEdges [] emitA).state = .emit) ∧
    (Inv (withEdges [] emitLast) ∧ (withEdges [] emitLast).state = .emit) := ⟨⟨inv_emitA _, rfl⟩, inv_emitLast _, rfl⟩

theorem witness_PointerSequencing :
    (loadA.state = .load ∧ loadA.errCode.unused = false) ∧
    (Inv (withEdges [] emitLast) ∧ (withEdges [] emitLast).state = .emit) ∧
    (step (withEdges [cmdEdge 0#10] emitA) = .next (withEdges [] emitA) ∧
      (pins (withEdges [cmdEdge 0#10] emitA)).segReady = false) :=
  ⟨by decide, ⟨inv_emitLast _, rfl⟩, (step_small rfl).trans rfl, rfl⟩

theorem witness_DeliveredWidths :
    segWordPort emitA = .ok 0x0A#5 ∧ segValid emitA = true ∧ segWordPort loadA = .ok 0#5 ∧ segValid loadA = false := by
  decide +kernel

/-- The two ends of the range (95_test_vectors.md V-C). -/
theorem witness_EveryChecksumReached :
    (0 ≤ 102 ∧ refChecksum [32#8, 83#8] = 0) ∧ (102 ≤ 102 ∧ refChecksum [65#8, 66#8] = 102) := by decide

theorem witness_InvariantAtReset : small.wellFormed = true := small_ok

theorem witness_StepKeepsInvariant :
    Inv (withEdges [idleEdge] emitA) ∧
      step (withEdges [idleEdge] emitA) = .next (nextEdge (withEdges [idleEdge] emitA)) :=
  ⟨inv_emitA _, (step_small rfl).trans rfl⟩

theorem witness_StepKeepsBufferCanonical :
    Memory.wf (withEdges [idleEdge] fullAB).buf = true ∧
      step (withEdges [idleEdge] fullAB) = .next (nextEdge (withEdges [idleEdge] fullAB)) :=
  ⟨by decide, (step_small rfl).trans rfl⟩

theorem witness_StepAlwaysAnswers : Inv (withEdges [cmdEdge 0x3FF#10] doneA) := inv_doneA _

theorem witness_RegistersFitTheirWidths : Inv (withEdges [] emitLast) := inv_emitLast _

theorem witness_StatusPorts : Inv (withEdges [] emitA) := inv_emitA _

/-- A command edge, a reset edge, a segment edge and a quiet edge, in states the clauses name. -/
theorem witness_ControllerTransitions :
    step (withEdges [cmdEdge 0x17F#10] loadA) = .next (raiseErr .invalidChar 1 127#8 (withEdges [] loadA)) ∧
    step (withEdges [rstEdge] emitA) = .next (resetRegisters (withEdges [] emitA)) ∧
    step (withEdges [segEdge] emitA) = .next (emitWord 0x0A#5 (setPointers 0 1#3 (withEdges [] emitA))) ∧
    step (withEdges [idleEdge] emitA) = .next (withEdges [] emitA) ∧
    step (withEdges [idleEdge] loadA) = .next (withEdges [] loadA) :=
  ⟨(step_small rfl).trans rfl, (step_small rfl).trans rfl, (step_small rfl).trans rfl, (step_small rfl).trans rfl,
    (step_small rfl).trans rfl⟩

theorem witness_LeavingError :
    (errorX.state = .error ∧ (openTransaction errorX).state ≠ .error ∧ (resetRegisters errorX).state ≠ .error) ∧
    step (withEdges [cmdEdge 0x000#10] errorX) = .next (openTransaction (withEdges [] errorX)) ∧
    step (withEdges [rstEdge] errorX) = .next (resetRegisters (withEdges [] errorX)) :=
  ⟨by decide, (step_small rfl).trans rfl, (step_small rfl).trans rfl⟩

theorem witness_EmitEnteredOnlyByEnd :
    step (withEdges [cmdEdge 0x200#10] loadA) = .next (closeTransaction (withEdges [] loadA)) ∧
      loadA.state ≠ .emit ∧ (closeTransaction loadA).state = .emit := ⟨(step_small rfl).trans rfl, by decide, rfl⟩

theorem witness_ErrorRunsDeliverNothing :
    errorX.cfg.wellFormed = true ∧ errorX.state = .error ∧ errorX.errCode.unused = false ∧
      noReset [cmdEdge 0x17F#10, segEdge, cmdEdge 0x200#10] = true ∧
      ∀ w ∈ commandWords [cmdEdge 0x17F#10, segEdge, cmdEdge 0x200#10], opField w ≠ 0b00#2 :=
  ⟨small_ok, rfl, rfl, by decide, by decide⟩

theorem witness_OutputShape : small.wellFormed = true ∧ acceptable small [32#8, 126#8] = true := ⟨small_ok, by decide⟩

theorem witness_StartBInvariant : small.wellFormed = true ∧ acceptable small [] = true := ⟨small_ok, by decide⟩

theorem witness_OutputDeterminesInput :
    small.wellFormed = true ∧ acceptable small [65#8, 66#8] = true ∧
      refSegments small [65#8, 66#8] = refSegments small [65#8, 66#8] := ⟨small_ok, by decide, rfl⟩

/-- The edges of `BEGIN 0xFF; CHAR 'A'; END`, with a stall. -/
def edgesA : List Pins := [cmdEdge 0x0FF#10, idleEdge, cmdEdge 0x141#10, cmdEdge 0x200#10]

theorem witness_TransactionContract :
    doneA.cfg.wellFormed = true ∧ ready doneA = true ∧ acceptable doneA.cfg [65#8] = true ∧
      inputPhase edgesA 0xFF#8 [65#8] 0#8 = true ∧ outputPhase (idleEdge :: List.replicate 25 segEdge) 1 = true :=
  ⟨small_ok, by decide, by decide, by decide +kernel, by decide +kernel⟩

/-- The first bad position at MAX_LEN, and one below it. -/
theorem witness_RejectedTransaction :
    (doneA.cfg.wellFormed = true ∧ ready doneA = true) ∧
    (inputPhase (cmdEdge 0x000#10 :: List.replicate 3 (cmdEdge 0x141#10) ++ [cmdEdge 0x200#10]) 0#8 [65#8, 65#8, 65#8] 0#8 = true ∧
      firstBad doneA.cfg [65#8, 65#8, 65#8] 2 = true) ∧
    (inputPhase [cmdEdge 0x000#10, cmdEdge 0x141#10, cmdEdge 0x107#10, cmdEdge 0x200#10] 0#8 [65#8, 7#8] 0#8 = true ∧
      firstBad doneA.cfg [65#8, 7#8] 1 = true) :=
  ⟨⟨small_ok, by decide⟩, ⟨by decide +kernel, by decide +kernel⟩, by decide +kernel, by decide +kernel⟩

theorem witness_TransactionsAreDeterministic :
    (doneA.cfg.wellFormed = true ∧ errorX.cfg.wellFormed = true ∧ errorX.cfg.rom = doneA.cfg.rom ∧
      ready doneA = true ∧ ready errorX = true ∧ acceptable doneA.cfg [65#8] = true) ∧
    (inputPhase edgesA 0xFF#8 [65#8] 0#8 = true ∧ outputPhase (List.replicate 25 segEdge) 1 = true) ∧
    (inputPhase [cmdEdge 0x000#10, cmdEdge 0x141#10, cmdEdge 0x2AA#10] 0#8 [65#8] 0xAA#8 = true ∧
      outputPhase (idleEdge :: List.replicate 25 segEdge) 1 = true) :=
  ⟨⟨small_ok, small_ok, rfl, by decide, by decide, by decide⟩, ⟨by decide +kernel, by decide +kernel⟩, by decide +kernel,
    by decide +kernel⟩

/-- V-R1: five segments, then reset. -/
theorem witness_ResetCutsTheStream :
    doneA.cfg.wellFormed = true ∧ ready doneA = true ∧ acceptable doneA.cfg [65#8] = true ∧
      inputPhase edgesA 0xFF#8 [65#8] 0#8 = true ∧ noReset (List.replicate 5 segEdge) = true ∧
      accepts (List.replicate 5 segEdge) < refSegCount 1 ∧ rstEdge.rst = true :=
  ⟨small_ok, by decide, by decide, by decide +kernel, by decide, by decide, rfl⟩

theorem witness_ReadyTransactionTakes7nPlus21Edges :
    doneA.cfg.wellFormed = true ∧ ready doneA = true ∧ acceptable doneA.cfg [] = true ∧
      inputPhase [cmdEdge 0x000#10, cmdEdge 0x200#10] 0#8 [] 0#8 = true ∧
      [cmdEdge 0x000#10, cmdEdge 0x200#10].all (·.cmdValid) = true ∧
      outputPhase (List.replicate 19 segEdge) 0 = true ∧ (List.replicate 19 segEdge).all (·.segReady) = true :=
  ⟨small_ok, by decide, by decide, by decide +kernel, by decide, by decide +kernel, by decide⟩

end Sys2Proof.Tests
end

section
/-! The derived widths of R9: what `bits` counts, and which values the registers of an invariant state hold. -/

namespace Sys2Proof.Machine

/-- R9: `n` bits hold `v` exactly when `n` is at least `bits v`. -/
theorem lt_two_pow_iff_bits_le (v n : Nat) : v < 2 ^ n ↔ bits v ≤ n := by
  unfold bits
  split
  case isTrue hzero => simp [hzero]
  case isFalse hpos => rw [← Nat.log2_lt hpos, Nat.lt_iff_add_one_le]

/-- A register of `bits m` bits holds every value up to `m`. -/
theorem lt_two_pow_bits {v m : Nat} (h : v ≤ m) : v < 2 ^ bits m :=
  h.trans_lt ((lt_two_pow_iff_bits_le m (bits m)).mpr le_rfl)

/-- `sym_ptr` stays within the pattern positions in every state, in EMIT (R34 (f)) and at rest (R33). -/
theorem Inv.symPtr_le {s : State} (h : Inv s) : s.symPtr ≤ s.len + 2 := by
  by_cases hemit : s.state = .emit
  · exact (h.pointers hemit).1
  · simp [(h.pointersRest hemit).1]

/-- Settles O46: the widths are `bits` of the bounds that the invariant sets on the registers. -/
theorem registersFitTheirWidths : Obligations.RegistersFitTheirWidths := by
  refine ⟨fun _ => ⟨rfl, rfl, rfl, rfl⟩, lt_two_pow_iff_bits_le, fun s h => ?_, ?_⟩
  · have hlen := h.lenLe
    have hsym := h.symPtr_le
    exact ⟨lt_two_pow_bits hlen, lt_two_pow_bits h.errPosLe, lt_two_pow_bits (by omega),
      lt_two_pow_bits (by omega), lt_two_pow_bits (by omega)⟩
  · decide

end Sys2Proof.Machine
end

section
/-! What the events leave of BUF, and the effect of one sample of the input ports (10_state.md R21, R66, R67). -/

namespace Sys2Proof.Machine

/-! ### BUF -/

theorem noEntry_of_buf_nil {t : State} (hb : t.buf = []) : NoEntry t := by
  intro k v hv
  simpa [hb] using ((bufRead_ok_iff t k v).1 hv).2

theorem bufRead_appendSymbol_same {s : State} (idx : SymIdx) (acc : BitVec 7) (hlt : s.len < s.cfg.maxLen) :
    bufRead (appendSymbol idx acc s) s.len = .ok idx :=
  (bufRead_ok_iff _ _ _).2 ⟨hlt, Memory.get_put_same _ _ _⟩

theorem appendSymbol_sameBufExcept (idx : SymIdx) (acc : BitVec 7) (s : State) :
    SameBufExcept s.len s (appendSymbol idx acc s) :=
  fun k hk => bufRead_congr (appendSymbol_cfg idx acc s) k (Memory.get_put_other s.buf idx hk)

/-! ### One edge -/

theorem ready_iff (s : State) : ready s = true ↔ stuckFault s = none ∧ s.state ≠ .emit := by
  simp [ready, cmdReady]

theorem pins_of_inputs {s : State} {p : Pins} {rest : List Pins} (h : s.inputs = p :: rest) : pins s = p := by
  simp [pins, h]

theorem nextEdge_of_inputs {s : State} {p : Pins} {rest : List Pins} (h : s.inputs = p :: rest) :
    nextEdge s = { s with inputs := rest } := by
  simp [nextEdge, h]

/-- In a well-formed configuration a step is the edge's event. -/
theorem step_eq_edgeEvent {s : State} (hw : s.cfg.wellFormed = true) : step s = edgeEvent s :=
  if_pos hw

/-- The event of an edge without reset, in a block that is not stuck. -/
theorem edgeEvent_of_no_reset {s : State} (hr : (pins s).rst = false) (hs : stuckFault s = none) :
    edgeEvent s =
      if (pins s).cmdValid && cmdReady s then exec (decode (pins s).cmdWord) (nextEdge s)
      else if segValid s && (pins s).segReady then segOut (nextEdge s)
      else .next (nextEdge s) := by
  simp [edgeEvent, hr, hs]

/-- Settles O13: the command transfer comes first among the events of an edge without reset. -/
theorem stepRunsPresentedCommand : Obligations.StepRunsPresentedCommand := by
  intro s p rest hw hready hin hr hv
  obtain ⟨hs, he⟩ := (ready_iff s).1 hready
  have hp := pins_of_inputs hin
  rw [step_eq_edgeEvent hw, edgeEvent_of_no_reset (by rw [hp, hr]) hs, hp, nextEdge_of_inputs hin]
  simp [hv, cmdReady, he]

/-- Settles O16: with neither transfer the edge falls through to the last arm. -/
theorem quietEdge : Obligations.QuietEdge := by
  intro s p rest hw hs hin hr hcmd hseg
  have hp := pins_of_inputs hin
  rw [step_eq_edgeEvent hw, edgeEvent_of_no_reset (by rw [hp, hr]) hs, hp, nextEdge_of_inputs hin]
  simp [hcmd, hseg]

/-- In EMIT the event of an edge reads `rst` and `seg_ready` of the sample that is used up, and nothing else of it. -/
theorem edgeEvent_emit_congr {s u : State} (hs : s.state = .emit) (hn : nextEdge s = nextEdge u)
    (hr : (pins s).rst = (pins u).rst) (hseg : (pins s).segReady = (pins u).segReady) :
    edgeEvent s = edgeEvent u := by
  have hstate : s.state = u.state :=
    show (nextEdge s).state = (nextEdge u).state by rw [hn]
  have hstuck : stuckFault s = stuckFault u :=
    show stuckFault (nextEdge s) = stuckFault (nextEdge u) by rw [hn]
  have hu : u.state = .emit := hstate ▸ hs
  simp [edgeEvent, cmdReady, segValid, hs, hu, hn, hr, hseg, hstuck]

/-- Settles O18: the two samples agree on all that an edge in EMIT reads of them. -/
theorem commandPortIdleInEmit : Obligations.CommandPortIdleInEmit := by
  intro s p q rest he hr hseg
  have hedge : edgeEvent { s with inputs := p :: rest } = edgeEvent { s with inputs := q :: rest } :=
    edgeEvent_emit_congr he rfl hr hseg
  simp only [step, clockEdge, hedge]

end Sys2Proof.Machine
end

section
/-! The invariant of 10_state.md R34: it holds after reset, and every event of the edge keeps it. -/

namespace Sys2Proof.Machine

/-! ### After a reset and after BEGIN -/

theorem inv_resetRegisters {s : State} (hw : s.cfg.wellFormed = true) : Inv (resetRegisters s) where
  config := hw
  errIff := by simp
  errProduced := rfl
  lenLe := Nat.zero_le _
  accLe := by simp
  ckLe := by simp
  stateUsed := rfl
  filled := by simp
  pointers := by simp
  pointersRest := fun _ => ⟨rfl, rfl⟩
  errPosLe := Nat.zero_le _
  bufCanonical := rfl
  bufEntries := by simp

/-- BEGIN leaves what a reset leaves, but for LOAD in the place of IDLE; BUF is filled as far as `len = 0`. -/
theorem inv_openTransaction {s : State} (hw : s.cfg.wellFormed = true) : Inv (openTransaction s) :=
  { inv_resetRegisters hw with
    errIff := by simp
    stateUsed := rfl
    filled := fun _ _ hk => absurd hk (Nat.not_lt_zero _)
    pointers := by simp
    pointersRest := fun _ => ⟨rfl, rfl⟩ }

/-! ### The other commands -/

/-- R34 (a), read from the state. -/
theorem Inv.errCode_none {s : State} (h : Inv s) (hs : s.state ≠ .error) : s.errCode = .none :=
  of_not_not fun hc => hs (h.errIff.1 hc)

/-- The invariant says nothing about the input ports. -/
theorem inv_nextEdge {s : State} (h : Inv s) : Inv (nextEdge s) :=
  { h with }

theorem inv_raiseErr {s : State} (h : Inv s) {code : ErrCode} (d : Data) (hcode : code ≠ .none)
    (hused : code.unused = false) (hs : s.state ≠ .emit) : Inv (raiseErr code s.len d s) :=
  { h with
    errIff := by simp [hcode]
    errProduced := hused
    stateUsed := rfl
    filled := by simp
    pointers := by simp
    pointersRest := fun _ => h.pointersRest hs
    errPosLe := h.lenLe }

theorem charIndex_le {c : Data} (hc : charAccepted c = true) : (charIndex c).toNat ≤ 94 := by
  have hidx := charIndex_toNat hc
  have hcode := charAccepted_bounds hc
  omega

theorem accUpdate_le (acc : BitVec 7) (idx : SymIdx) (weight : Nat) : (accUpdate acc idx weight).toNat ≤ 102 := by
  rw [accUpdate_toNat]
  exact Nat.le_of_lt_succ (Nat.mod_lt _ (by decide))

/-- Storing one more symbol at `len` fills one more entry of BUF. -/
theorem filled_appendSymbol {s : State} (hf : Filled s) (hlt : s.len < s.cfg.maxLen) {idx : SymIdx}
    (hidx : idx.toNat ≤ 94) (acc : BitVec 7) : Filled (appendSymbol idx acc s) := by
  intro k hk
  obtain rfl | hne := eq_or_ne k s.len
  · exact ⟨idx, bufRead_appendSymbol_same idx acc hlt, hidx⟩
  · obtain ⟨v, hv, hle⟩ := hf k (by rw [appendSymbol_len] at hk; omega)
    exact ⟨v, (appendSymbol_sameBufExcept idx acc s k hne).trans hv, hle⟩

theorem inv_appendSymbol {s : State} (h : Inv s) (hs : s.state = .load) (hlt : s.len < s.cfg.maxLen)
    {idx : SymIdx} (hidx : idx.toNat ≤ 94) {acc : BitVec 7} (hacc : acc.toNat ≤ 102) :
    Inv (appendSymbol idx acc s) :=
  { h with
    lenLe := hlt
    accLe := hacc
    filled := fun _ => filled_appendSymbol (h.filled (.inl hs)) hlt hidx acc
    pointers := by simp [hs]
    bufCanonical := Memory.wf_put _ _ _ h.bufCanonical
    bufEntries := fun k v hv => by
      rw [appendSymbol_buf] at hv
      obtain rfl | hne := eq_or_ne k s.len
      · rw [Memory.get_put_same, Option.some.injEq] at hv
        exact ⟨hlt, hv ▸ hidx⟩
      · rw [Memory.get_put_other _ _ hne] at hv
        exact h.bufEntries k v hv }

/-- The first segment of any symbol of the pattern sequence is a pointer position that R34 (f) allows. -/
theorem pointersInRange_symbol_start {s : State} (hw : s.cfg.wellFormed = true) (hf : Filled s)
    (hck : s.ckIdx.toNat ≤ 102) (hsym : s.symPtr ≤ s.len + 2) (hseg : s.segPtr = 0#3) : PointersInRange s := by
  obtain ⟨w, hword⟩ := symbolAt_answers hw hf hck s.symPtr
  have hlen := (romLen_bounds w).1
  exact ⟨hsym, w, hword, by simp only [hseg, BitVec.toNat_ofNat]; omega⟩

theorem inv_closeTransaction {s : State} (h : Inv s) (hs : s.state = .load) : Inv (closeTransaction s) :=
  have hf : Filled (closeTransaction s) := h.filled (.inl hs)
  { h with
    errIff := by simp [h.errCode_none (by simp [hs])]
    ckLe := h.accLe
    stateUsed := rfl
    filled := fun _ => hf
    pointers := fun _ => pointersInRange_symbol_start h.config hf h.accLe (Nat.zero_le _) rfl
    pointersRest := fun hn => absurd rfl hn }

/-- Every command keeps the invariant, whatever it answers. -/
theorem exec_keeps_inv {i : Instr} {s t : State} (h : Inv s) (hx : exec i s = .next t) : Inv t := by
  obtain ⟨-, ⟨rfl, -⟩ | ⟨-, -, rfl⟩ | ⟨code, hcode, hused, hs, -, -, rfl⟩ | ⟨c, -, hs, hlt, hc, rfl⟩ |
    ⟨-, hs, rfl⟩⟩ := exec_cases hx
  · exact h
  · exact inv_openTransaction h.config
  · exact inv_raiseErr h _ hcode hused hs
  · exact inv_appendSymbol h hs hlt (charIndex_le hc) (accUpdate_le _ _ _)
  · exact inv_closeTransaction h hs

/-! ### The segment transfer -/

/-- The invariant says nothing about what the sink has taken. -/
theorem inv_emitWord {s : State} (h : Inv s) (x : SegWord) : Inv (emitWord x s) :=
  { h with }

theorem inv_setPointers {s : State} (h : Inv s) (hs : s.state = .emit) {a : Nat} {b : BitVec 3}
    (hp : PointersInRange (setPointers a b s)) : Inv (setPointers a b s) :=
  { h with
    pointers := fun _ => hp
    pointersRest := fun hn => absurd hs hn }

theorem inv_finish {s : State} (h : Inv s) (hs : s.state = .emit) : Inv (finish (setPointers 0 0#3 s)) :=
  { h with
    errIff := by simp [h.errCode_none (by simp [hs])]
    stateUsed := rfl
    filled := fun _ => h.filled (.inr (.inl hs))
    pointers := by simp
    pointersRest := fun _ => ⟨rfl, rfl⟩ }

/-- Inside a symbol the next segment is one of the same symbol, and `seg_ptr` does not wrap. -/
theorem pointersInRange_next_segment {s : State} {w : RomWord} (hsym : s.symPtr ≤ s.len + 2)
    (hw : currentSegment s = .ok w) (hends : endsSymbol s w = false) :
    PointersInRange (setPointers s.symPtr (s.segPtr + 1#3) s) := by
  obtain ⟨hword, hlt⟩ := (currentSegment_ok_iff s w).1 hw
  have hne : s.segPtr.toNat ≠ romLen w - 1 := by simpa [endsSymbol] using hends
  have hlen := (romLen_bounds w).2
  refine ⟨hsym, w, hword, ?_⟩
  rw [setPointers_segPtr, BitVec.toNat_add, BitVec.toNat_ofNat]
  omega

/-- The three pointer moves of R173 keep the invariant. -/
theorem inv_advance {s : State} {w : RomWord} (h : Inv s) (hs : s.state = .emit) (hw : currentSegment s = .ok w) :
    Inv (advance s w) := by
  have hsym := (h.pointers hs).1
  rcases advance_cases s w with ⟨-, e⟩ | ⟨hlast, hends, e⟩ | ⟨-, hends, e⟩ <;> rw [e]
  · exact inv_finish h hs
  · have hne : s.symPtr ≠ s.len + 2 := by simpa [isLast, hends] using hlast
    exact inv_setPointers h hs (pointersInRange_symbol_start h.config (h.filled (.inr (.inl hs))) h.ckLe
      (by simp only [setPointers_symPtr, setPointers_len]; omega) rfl)
  · exact inv_setPointers h hs (pointersInRange_next_segment hsym hw hends)

theorem segOut_keeps_inv {s t : State} (h : Inv s) (hs : s.state = .emit) (hx : segOut s = .next t) : Inv t := by
  obtain ⟨w, hw, rfl⟩ := segOut_next hx
  exact inv_emitWord (inv_advance h hs hw) _

/-! ### The edge -/

/-- Settles O43: each event of an edge keeps the invariant. -/
theorem stepKeepsInvariant : Obligations.StepKeepsInvariant := by
  intro s t h hx
  obtain ⟨hw, ⟨-, rfl⟩ | ⟨-, -, ⟨-, -, hcmd⟩ | ⟨hs, -, hseg⟩ | ⟨-, -, rfl⟩⟩⟩ := step_cases hx
  · exact inv_resetRegisters hw
  · exact exec_keeps_inv (inv_nextEdge h) hcmd
  · exact segOut_keeps_inv (inv_nextEdge h) hs hseg
  · exact inv_nextEdge h

/-- Settles O42: `State.resetWith` holds exactly what a reset event writes. -/
theorem invariantAtReset : Obligations.InvariantAtReset :=
  have hreset (cfg : Config) (hw : cfg.wellFormed = true) : Inv (State.resetWith cfg) :=
    inv_resetRegisters (s := State.resetWith cfg) hw
  ⟨hreset, hreset _ referenceConfig_wellFormed⟩

end Sys2Proof.Machine
end

section
/-! What each command leaves as it was (10_state.md R33), and what BEGIN makes of any past (R36). -/

namespace Sys2Proof.Machine

/-- Settles O32: CHAR waits or is absorbed, raises an error, or stores one symbol at `len`. -/
theorem charFrame : Obligations.CharFrame := by
  intro c s t hx
  obtain ⟨-, ⟨rfl, -⟩ | ⟨⟨_, ⟨⟩⟩, -⟩ | ⟨_, -, -, -, hs, -, rfl⟩ | ⟨_, -, hs, -, -, rfl⟩ | ⟨⟨_, ⟨⟩⟩, -⟩⟩ :=
    exec_cases hx
  · exact ⟨⟨rfl, rfl, rfl⟩, ⟨rfl, rfl⟩, rfl, fun _ _ => rfl, fun _ => ⟨rfl, rfl, fun _ => rfl⟩,
      fun _ => ⟨rfl, rfl, rfl⟩⟩
  · exact ⟨⟨rfl, rfl, rfl⟩, ⟨rfl, rfl⟩, rfl, fun _ _ => rfl, fun _ => ⟨rfl, rfl, fun _ => rfl⟩,
      fun hst => absurd hst.symm hs⟩
  · have hloaded : ¬(s.state ≠ .load ∨ s.state = .error) := by simp [hs]
    exact ⟨⟨rfl, rfl, rfl⟩, ⟨rfl, rfl⟩, rfl, appendSymbol_sameBufExcept _ _ s, fun hn => absurd hn hloaded,
      fun _ => ⟨rfl, rfl, rfl⟩⟩

/-- BEGIN waits in EMIT and opens a transaction elsewhere. -/
theorem begin_frame {d : Data} {s t : State} (hx : exec (.beginCmd d) s = .next t) :
    SameOutside s t ∧ (s.state = .emit → t = s) ∧ (s.state ≠ .emit → NoEntry t) := by
  obtain ⟨-, ⟨he, rfl⟩ | ⟨he, hopen⟩⟩ := onTransfer_next hx
  · exact ⟨⟨rfl, rfl, rfl⟩, fun _ => rfl, fun hn => absurd he hn⟩
  · obtain rfl := Host.Outcome.next.inj hopen
    exact ⟨⟨rfl, rfl, rfl⟩, fun h => absurd h he, fun _ => noEntry_of_buf_nil rfl⟩

/-- END waits or is absorbed, raises an error, or, in LOAD, closes the transaction. -/
theorem end_frame {d : Data} {s t : State} (hx : exec (.endCmd d) s = .next t) :
    SameOutside s t ∧ SameBuf s t ∧ t.len = s.len ∧ t.acc = s.acc ∧
    (s.state ≠ .load → t.ckIdx = s.ckIdx ∧ SamePointers s t) ∧
    (t.state ≠ .error ∨ s.state = .error → SameErr s t) := by
  obtain ⟨-, ⟨rfl, -⟩ | ⟨⟨_, ⟨⟩⟩, -⟩ | ⟨_, -, -, -, hs, -, rfl⟩ | ⟨_, ⟨⟩, -⟩ | ⟨-, hs, rfl⟩⟩ := exec_cases hx
  · exact ⟨⟨rfl, rfl, rfl⟩, fun _ => rfl, rfl, rfl, fun _ => ⟨rfl, rfl, rfl⟩, fun _ => ⟨rfl, rfl, rfl⟩⟩
  · have hraised : ¬(Ctl.error ≠ .error ∨ s.state = .error) := by simp [hs]
    exact ⟨⟨rfl, rfl, rfl⟩, fun _ => rfl, rfl, rfl, fun _ => ⟨rfl, rfl, rfl⟩, fun hn => absurd hn hraised⟩
  · exact ⟨⟨rfl, rfl, rfl⟩, fun _ => rfl, rfl, rfl, fun hn => absurd hs hn, fun _ => ⟨rfl, rfl, rfl⟩⟩

/-- RSVD waits or is absorbed, or raises an error. -/
theorem rsvd_frame {d : Data} {s t : State} (hx : exec (.rsvdCmd d) s = .next t) :
    SameOutside s t ∧ SameBuf s t ∧ t.len = s.len ∧ t.acc = s.acc ∧ t.ckIdx = s.ckIdx ∧ SamePointers s t ∧
    (t.state = s.state → SameErr s t) := by
  obtain ⟨-, ⟨rfl, -⟩ | ⟨⟨_, ⟨⟩⟩, -⟩ | ⟨_, -, -, -, hs, -, rfl⟩ | ⟨_, ⟨⟩, -⟩ | ⟨⟨_, ⟨⟩⟩, -⟩⟩ := exec_cases hx
  · exact ⟨⟨rfl, rfl, rfl⟩, fun _ => rfl, rfl, rfl, rfl, ⟨rfl, rfl⟩, fun _ => ⟨rfl, rfl, rfl⟩⟩
  · exact ⟨⟨rfl, rfl, rfl⟩, fun _ => rfl, rfl, rfl, rfl, ⟨rfl, rfl⟩, fun hst => absurd hst.symm hs⟩

/-- Settles O33, one command at a time. -/
theorem beginEndRsvdFrame : Obligations.BeginEndRsvdFrame :=
  ⟨fun _ _ _ => begin_frame, fun _ _ _ => end_frame, fun _ _ _ => rsvd_frame⟩

/-- BEGIN in a block that can take a command opens a transaction (R121). -/
theorem exec_begin_of_ready (d : Data) {s : State} (h : ready s = true) :
    exec (.beginCmd d) s = .next (openTransaction s) := by
  obtain ⟨hs, he⟩ := (ready_iff s).1 h
  exact onTransfer_ready _ hs he

theorem sameBlock_openTransaction (s u : State) : sameBlock (openTransaction s) (openTransaction u) = true := by
  simp [sameBlock]

/-- Settles O34: BEGIN writes every register of the block with a constant. -/
theorem beginForgetsThePast : Obligations.BeginForgetsThePast :=
  fun d e s u hs hu =>
    ⟨openTransaction s, openTransaction u, exec_begin_of_ready d hs, exec_begin_of_ready e hu,
      sameBlock_openTransaction s u⟩

end Sys2Proof.Machine
end

section
/-! The status ports (10_state.md R23): none is narrower than the register or total it shows. -/

namespace Sys2Proof.Machine

/-- A port of `bits m` bits shows a value up to `m` as it is. -/
theorem toNat_ofNat_bits {v m : Nat} (h : v ≤ m) : (BitVec.ofNat (bits m) v).toNat = v :=
  (BitVec.toNat_ofNat v _).trans (Nat.mod_eq_of_lt (lt_two_pow_bits h))

/-- Settles O47: the invariant bounds `len` and `err_pos` by MAX_LEN, and the widths of R9 are made for that bound. -/
theorem statusPorts : Obligations.StatusPorts := by
  intro s es h
  have hsegs : 6 * s.len + 19 ≤ 6 * s.cfg.maxLen + 19 := by have := h.lenLe; omega
  have hmodules : 11 * s.len + 35 ≤ 11 * s.cfg.maxLen + 35 := by have := h.lenLe; omega
  exact ⟨rfl, rfl, toNat_ofNat_bits h.errPosLe, rfl, toNat_ofNat_bits h.lenLe, rfl, toNat_ofNat_bits hsegs,
    toNat_ofNat_bits hmodules⟩

end Sys2Proof.Machine
end

section
/-! What a step leaves of BUF and of the configuration (20_memory.md R60, R66). -/

namespace Sys2Proof.Machine

/-! ### BUF -/

/-- A command leaves BUF as it is, empties it, or writes the entry at `len`. -/
theorem exec_buf {i : Instr} {s t : State} (hx : exec i s = .next t) :
    t.buf = s.buf ∨ t.buf = [] ∨ ∃ idx, t.buf = Memory.put s.buf s.len idx := by
  obtain ⟨-, ⟨rfl, -⟩ | ⟨-, -, rfl⟩ | ⟨_, -, -, -, -, -, rfl⟩ | ⟨_, -, -, -, -, rfl⟩ | ⟨-, -, rfl⟩⟩ := exec_cases hx
  · exact .inl rfl
  · exact .inr (.inl rfl)
  · exact .inl rfl
  · exact .inr (.inr ⟨_, rfl⟩)
  · exact .inl rfl

@[simp] theorem advance_buf (s : State) (w : RomWord) : (advance s w).buf = s.buf := by
  rcases advance_cases s w with ⟨-, e⟩ | ⟨-, -, e⟩ | ⟨-, -, e⟩ <;> rw [e] <;> rfl

theorem segOut_buf {s t : State} (hx : segOut s = .next t) : t.buf = s.buf := by
  obtain ⟨w, -, rfl⟩ := segOut_next hx
  simp

/-- The only write of BUF that a step makes is the one of an accepted CHAR, at `len`. -/
theorem step_buf {s t : State} (hx : step s = .next t) :
    t.buf = s.buf ∨ t.buf = [] ∨ ∃ idx, t.buf = Memory.put s.buf s.len idx := by
  obtain ⟨-, ⟨-, rfl⟩ | ⟨-, -, ⟨-, -, hcmd⟩ | ⟨-, -, hseg⟩ | ⟨-, -, rfl⟩⟩⟩ := step_cases hx
  · exact .inr (.inl rfl)
  · simpa using exec_buf hcmd
  · exact .inl (by simpa using segOut_buf hseg)
  · exact .inl rfl

/-- Settles O44: an empty BUF is in canonical form, and a write keeps the form. -/
theorem stepKeepsBufferCanonical : Obligations.StepKeepsBufferCanonical := by
  intro s t hwf hx
  obtain hb | hb | ⟨idx, hb⟩ := step_buf hx <;> rw [hb]
  · exact hwf
  · rfl
  · exact Memory.wf_put s.buf s.len idx hwf

/-! ### The configuration -/

theorem exec_cfg {i : Instr} {s t : State} (hx : exec i s = .next t) : t.cfg = s.cfg := by
  obtain ⟨-, ⟨rfl, -⟩ | ⟨-, -, rfl⟩ | ⟨_, -, -, -, -, -, rfl⟩ | ⟨_, -, -, -, -, rfl⟩ | ⟨-, -, rfl⟩⟩ := exec_cases hx
  all_goals rfl

@[simp] theorem advance_cfg (s : State) (w : RomWord) : (advance s w).cfg = s.cfg := by
  rcases advance_cases s w with ⟨-, e⟩ | ⟨-, -, e⟩ | ⟨-, -, e⟩ <;> rw [e] <;> rfl

theorem segOut_cfg {s t : State} (hx : segOut s = .next t) : t.cfg = s.cfg := by
  obtain ⟨w, -, rfl⟩ := segOut_next hx
  simp

/-- Settles O12: no event of an edge writes the parameters. -/
theorem stepKeepsConfiguration : Obligations.StepKeepsConfiguration := by
  intro s t hx
  obtain ⟨-, ⟨-, rfl⟩ | ⟨-, -, ⟨-, -, hcmd⟩ | ⟨-, -, hseg⟩ | ⟨-, -, rfl⟩⟩⟩ := step_cases hx
  · rfl
  · simpa using exec_cfg hcmd
  · simpa using segOut_cfg hseg
  · rfl

end Sys2Proof.Machine
end

section
/-! No stop is reached from a state of the invariant (10_state.md R34). -/

namespace Sys2Proof.Machine

theorem Inv.not_stuck {s : State} (h : Inv s) : stuckFault s = none :=
  (stuckFault_none_iff s).2 ⟨h.stateUsed, h.errProduced⟩

/-! ### The arms of the dispatch answer where what they guard answers -/

theorem onTransfer_answers {s : State} {arm : Out} (hs : stuckFault s = none) (ha : ∃ t, arm = .next t) :
    ∃ t, onTransfer s arm = .next t := by
  by_cases he : s.state = .emit
  · exact ⟨s, onTransfer_emit arm hs he⟩
  · rwa [onTransfer_ready arm hs he]

theorem unlessError_answers {s : State} {arm : Out} (ha : ∃ t, arm = .next t) :
    ∃ t, unlessError s arm = .next t := by
  unfold unlessError
  split
  · exact ⟨s, rfl⟩
  · exact ha

theorem inTransaction_answers {s : State} (d : Data) {arm : Out} (ha : ∃ t, arm = .next t) :
    ∃ t, inTransaction s d arm = .next t := by
  unfold inTransaction
  split
  · exact ⟨_, rfl⟩
  · exact ha

/-- R34 (b) leaves an accepted character an address to be stored at. -/
theorem storeChar_answers (c : Data) {s : State} (hlen : s.len ≤ s.cfg.maxLen) : ∃ t, storeChar c s = .next t := by
  rcases storeChar_cases c s with ⟨-, e⟩ | ⟨-, -, e⟩ | ⟨-, -, e⟩ | ⟨hgt, -, -⟩
  · exact ⟨_, e⟩
  · exact ⟨_, e⟩
  · exact ⟨_, e⟩
  · omega

/-! ### The events -/

theorem exec_answers (i : Instr) {s : State} (h : Inv s) : ∃ t, exec i s = .next t := by
  cases i with
  | beginCmd d => exact onTransfer_answers h.not_stuck ⟨_, rfl⟩
  | charCmd c =>
    exact onTransfer_answers h.not_stuck
      (unlessError_answers (inTransaction_answers c (storeChar_answers c h.lenLe)))
  | endCmd d => exact onTransfer_answers h.not_stuck (unlessError_answers (inTransaction_answers d ⟨_, rfl⟩))
  | rsvdCmd d => exact onTransfer_answers h.not_stuck (unlessError_answers ⟨_, rfl⟩)

/-- R34 (f): the current symbol is readable and `seg_ptr` is below its length. -/
theorem segOut_answers {s : State} (h : Inv s) (hs : s.state = .emit) : ∃ t, segOut s = .next t := by
  obtain ⟨-, w, hw, hlt⟩ := h.pointers hs
  exact ⟨_, segOut_ok ((currentSegment_ok_iff s w).2 ⟨hw, hlt⟩)⟩

/-- Settles O45: each event of an edge answers. -/
theorem stepAlwaysAnswers : Obligations.StepAlwaysAnswers := by
  intro s h
  rw [step_eq_edgeEvent h.config]
  by_cases hr : (pins s).rst = true
  · exact ⟨resetRegisters (nextEdge s), if_pos hr⟩
  rw [edgeEvent_of_no_reset (by simpa using hr) h.not_stuck]
  split
  · exact exec_answers _ (inv_nextEdge h)
  split
  next hseg =>
    have hemit : s.state = .emit := by simpa [segValid] using (Bool.and_eq_true_iff.1 hseg).1
    exact segOut_answers (inv_nextEdge h) hemit
  · exact ⟨nextEdge s, rfl⟩

end Sys2Proof.Machine
end

section
/-! The checks of a configuration in the terms of 20_memory.md R62, and the refusal of one that fails them (R225). -/

namespace Sys2Proof.Machine

/-! ### One word -/

/-- A word with `n7 = 0` has the widths of the fields `f_0` to `f_5` (R98). -/
theorem romWidths_of_romN7_false {w : RomWord} (h : romN7 w = false) :
    romWidths w = [romWidth w 0, romWidth w 1, romWidth w 2, romWidth w 3, romWidth w 4, romWidth w 5] := by
  simp [romWidths, romLen, h, List.range_succ]

/-- A word with `n7 = 1` has the width of `f_6` too (R98). -/
theorem romWidths_of_romN7_true {w : RomWord} (h : romN7 w = true) :
    romWidths w =
      [romWidth w 0, romWidth w 1, romWidth w 2, romWidth w 3, romWidth w 4, romWidth w 5, romWidth w 6] := by
  simp [romWidths, romLen, h, List.range_succ]

/-- WF1 for one word, in the terms of the rule. -/
theorem symbolOk_iff (w : RomWord) :
    symbolOk w = true ↔ w.getLsbD 14 = false ∧ w.extractLsb' 12 2 = 0b00#2 ∧
      romWidth w 0 + romWidth w 1 + romWidth w 2 + romWidth w 3 + romWidth w 4 + romWidth w 5 = 11 := by
  change _ ↔ romN7 w = false ∧ romField w 6 = 0#2 ∧ _
  cases hn : romN7 w
  · simp [symbolOk, hn, romWidths_of_romN7_false hn, symWidth, Nat.add_assoc]
  · simp [symbolOk, hn]

/-- WF2 for one word, in the terms of the rule. -/
theorem stopOk_iff (w : RomWord) :
    stopOk w = true ↔ w.getLsbD 14 = true ∧
      romWidth w 0 + romWidth w 1 + romWidth w 2 + romWidth w 3 + romWidth w 4 + romWidth w 5 + romWidth w 6 = 13 ∧
      romWidth w 6 = 2 := by
  change _ ↔ romN7 w = true ∧ _
  cases hn : romN7 w
  · simp [stopOk, hn]
  · simp [stopOk, hn, romWidths_of_romN7_true hn, stopWidth, Nat.add_assoc]

/-! ### The whole ROM -/

theorem configOk_iff (cfg : Config) :
    configOk cfg = true ↔ 1 ≤ cfg.maxLen ∧ (cfg.rom.length = 107 ∨ cfg.rom.length = 108) ∧
      wf1 cfg.rom = true ∧ wf2 cfg.rom = true ∧ wf4 cfg.rom = true := by
  simp [configOk, romShapeOk, and_assoc]

theorem romWord_of_lt (cfg : Config) {a : Nat} (ha : a < 107) : romWord cfg a = cfg.rom[a]? :=
  if_pos ha

theorem wf1_of_symbols {cfg : Config} (h : ∀ a, a ≤ 105 → ∃ w, romWord cfg a = some w ∧ symbolOk w = true) :
    wf1 cfg.rom = true := by
  refine List.all_eq_true.2 fun w hw => ?_
  obtain ⟨a, ha, rfl⟩ := List.mem_take_iff_getElem.1 hw
  obtain ⟨u, hu, hok⟩ := h a (by omega)
  rw [romWord_of_lt cfg (by omega), List.getElem?_eq_getElem (by omega), Option.some.injEq] at hu
  exact hu ▸ hok

theorem wf2_of_stop {cfg : Config} {w : RomWord} (hw : romWord cfg 106 = some w) (hok : stopOk w = true) :
    wf2 cfg.rom = true := by
  rw [romWord_of_lt cfg (by decide)] at hw
  simp [wf2, hw, hok]

theorem allDistinct_iff_pairwise (l : List (List Nat)) : allDistinct l = true ↔ l.Pairwise (· ≠ ·) := by
  induction l with
  | nil => simp [allDistinct]
  | cons x xs ih => simp [allDistinct, ih]

/-- WF4 in the terms of the rule: two addresses of 0..102 hold different widths. -/
theorem wf4_iff {cfg : Config} (hl : 103 ≤ cfg.rom.length) :
    wf4 cfg.rom = true ↔
      ∀ a b u v, a < b → b ≤ 102 → romWord cfg a = some u → romWord cfg b = some v → romWidths u ≠ romWidths v := by
  rw [wf4, allDistinct_iff_pairwise, List.pairwise_map, List.pairwise_iff_getElem]
  simp only [List.length_take, List.getElem_take]
  constructor
  · intro h a b u v hab hb hu hv
    rw [romWord_of_lt cfg (by omega), List.getElem?_eq_some_iff] at hu hv
    obtain ⟨-, rfl⟩ := hu
    obtain ⟨-, rfl⟩ := hv
    exact h a b (by omega) (by omega) hab
  · intro h a b ha hb hab
    refine h a b _ _ hab (by omega) ?_ ?_ <;>
      rw [romWord_of_lt cfg (by omega), List.getElem?_eq_getElem]

/-- Settles O9: each check reads as its clause of R62. -/
theorem wellFormednessChecks : Obligations.WellFormednessChecks := by
  intro cfg
  constructor
  · intro h
    obtain ⟨hmax, hlen, -, -, h4⟩ := (configOk_iff cfg).1 h
    obtain ⟨w, hw, hok⟩ := romWord_stop h
    refine ⟨hmax, hlen, fun a ha => ?_, ⟨w, hw, (stopOk_iff w).1 hok⟩, (wf4_iff (by omega)).1 h4⟩
    obtain ⟨u, hu, hsym⟩ := romWord_symbol h ha
    exact ⟨u, hu, (symbolOk_iff u).1 hsym⟩
  · rintro ⟨hmax, hlen, hsym, ⟨w, hw, hstop⟩, hdist⟩
    refine (configOk_iff cfg).2 ⟨hmax, hlen, wf1_of_symbols fun a ha => ?_,
      wf2_of_stop hw ((stopOk_iff w).2 hstop), (wf4_iff (by omega)).2 hdist⟩
    obtain ⟨u, hu, hok⟩ := hsym a ha
    exact ⟨u, hu, (symbolOk_iff u).2 hok⟩

/-- Settles O10: the check stands before every event of the edge, a reset too. -/
theorem illFormedConfigRefused : Obligations.IllFormedConfigRefused :=
  fun _ h => if_neg (by simp [h])

/-! ### The changed reference ROMs of V-W3 -/

/-- One failed check of R62 is enough. -/
theorem wellFormed_false_of_check {cfg : Config}
    (h : wf1 cfg.rom = false ∨ wf2 cfg.rom = false ∨ wf4 cfg.rom = false) : cfg.wellFormed = false := by
  rcases h with h | h | h <;> simp [Config.wellFormed, configOk, h]

/-- Settles O11: each refused ROM fails the check of the word that was changed. -/
theorem changedReferenceRoms : Obligations.ChangedReferenceRoms :=
  ⟨wellFormed_false_of_check (.inl (by decide)), wellFormed_false_of_check (.inr (.inl (by decide))),
    wellFormed_false_of_check (.inr (.inl (by decide))), wellFormed_false_of_check (.inr (.inr (by decide))),
    by decide +kernel, by decide +kernel⟩

end Sys2Proof.Machine
end

section
/-! Command words (30_encoding.md R90 to R92): the decoder and the encoder read and write the same two fields. -/

namespace Sys2Proof.Machine

/-! ### The two fields -/

@[simp] theorem opField_append (op : BitVec 2) (d : Data) : opField (op ++ d) = op :=
  BitVec.extractLsb'_append_eq_left

@[simp] theorem dataField_append (op : BitVec 2) (d : Data) : dataField (op ++ d) = d :=
  BitVec.extractLsb'_append_eq_right

theorem opField_append_dataField (w : CmdWord) : opField w ++ dataField w = w :=
  (BitVec.extractLsb'_append_extractLsb'_eq_extractLsb' rfl).trans BitVec.extractLsb'_eq_self

/-- The four rows of R91, by the value of `op`. -/
theorem decode_cases (w : CmdWord) :
    (opField w = 0b00#2 ∧ decode w = .beginCmd (dataField w)) ∨
    (opField w = 0b01#2 ∧ decode w = .charCmd (dataField w)) ∨
    (opField w = 0b10#2 ∧ decode w = .endCmd (dataField w)) ∨
    (opField w = 0b11#2 ∧ decode w = .rsvdCmd (dataField w)) := by
  have hop : ∀ op : BitVec 2, op = 0b00#2 ∨ op = 0b01#2 ∨ op = 0b10#2 ∨ op = 0b11#2 := by decide
  rcases hop (opField w) with h | h | h | h <;> simp [decode, h]

/-! ### There and back -/

theorem decode_encode (i : Instr) : decode (encode i) = i := by
  cases i <;> simp [encode, decode]

theorem encode_decode (w : CmdWord) : encode (decode w) = w := by
  rcases decode_cases w with ⟨hop, h⟩ | ⟨hop, h⟩ | ⟨hop, h⟩ | ⟨hop, h⟩ <;>
    rw [h, encode, ← hop, opField_append_dataField]

/-- Settles O1: `{op, data}` holds the two fields and nothing else. -/
theorem decodeEncodeRoundTrip : Obligations.DecodeEncodeRoundTrip :=
  ⟨fun i _ => decode_encode i, encode_decode⟩

/-! ### The opcode map -/

/-- Every command's word selects its own row of the opcode map and no other. -/
theorem selected_rows_encode (i : Instr) :
    (opcodeTable.filter (·.selects (encode i))).map (·.mnemonic) = [mnemonicOf i] := by
  cases i with
  | beginCmd d => exact Laws.TableRow.beginCmd d
  | charCmd c => exact Laws.TableRow.charCmd c
  | endCmd d => exact Laws.TableRow.endCmd d
  | rsvdCmd d => exact Laws.TableRow.rsvdCmd d

/-- Settles O2: a word is the encoding of the command it decodes to. -/
theorem everyWordSelectsOneRow : Obligations.EveryWordSelectsOneRow := by
  intro w
  have hrow := selected_rows_encode (decode w)
  rw [encode_decode] at hrow
  refine ⟨hrow, ?_⟩
  rcases decode_cases w with ⟨hop, h⟩ | ⟨hop, h⟩ | ⟨hop, h⟩ | ⟨hop, h⟩ <;>
    simp [h, dataOf, dataField, mnemonicOf, show w.extractLsb' 8 2 = _ from hop]

/-- Settles O3: two words of each of the four rows. -/
theorem specWordsDecode : Obligations.SpecWordsDecode := by
  unfold Obligations.SpecWordsDecode
  decide

end Sys2Proof.Machine
end

section
/-! ROM words (30_encoding.md R97, R98): the fields of a packed word are the base-4 digits of its number. -/

namespace Sys2Proof.Machine

/-! ### Packing -/

/-- R97: the packed widths are the base-4 digits from digit `k` on. -/
theorem packWidths_eq_ofDigits (ws : List Nat) (k : Nat) :
    packWidths ws k = 4 ^ k * Nat.ofDigits 4 (ws.map (· - 1)) := by
  induction ws generalizing k with
  | nil => simp [packWidths]
  | cons x xs ih =>
    rw [packWidths, ih, List.map_cons, Nat.ofDigits_cons, Nat.shiftLeft_eq, pow_mul]
    ring

/-- The base-4 digits of the ROM word of a list of widths: the fields `f_k`, and `n7` as the digit after `f_6`. -/
def romDigits (ws : List Nat) : List Nat :=
  ws.map (· - 1) ++ if ws.length = 7 then [1] else []

theorem romDigits_lt {ws : List Nat} (hw : ∀ x ∈ ws, 1 ≤ x ∧ x ≤ 4) : ∀ d ∈ romDigits ws, d < 4 := by
  intro d hd
  obtain hd | hd := List.mem_append.1 hd
  · obtain ⟨x, hx, rfl⟩ := List.mem_map.1 hd
    have := hw x hx
    omega
  · split at hd <;> simp_all

theorem romDigits_getD_of_lt (ws : List Nat) {k : Nat} (hk : k < ws.length) :
    (romDigits ws).getD k 0 = ws[k] - 1 := by
  simp [romDigits, List.getElem?_append, hk]

theorem romDigits_getD_seven {ws : List Nat} (hl : ws.length ≤ 7) :
    (romDigits ws).getD 7 0 = if ws.length = 7 then 1 else 0 := by
  by_cases h : ws.length = 7
  · simp [romDigits, h]
  · simp [romDigits, h, hl]

/-- R97: `n7 << 14` stands above the seven fields, and the sum fits fifteen bits. -/
theorem romWordOf_toNat {ws : List Nat} (hl : ws.length ≤ 7) (hw : ∀ x ∈ ws, 1 ≤ x ∧ x ≤ 4) :
    (romWordOf ws).toNat = Nat.ofDigits 4 (romDigits ws) := by
  have hfields : Nat.ofDigits 4 (ws.map (· - 1)) < 4 ^ ws.length := by
    have := Nat.ofDigits_lt_base_pow_length (b := 4) (l := ws.map (· - 1)) (by decide)
      fun d hd => romDigits_lt hw d (List.mem_append_left _ hd)
    rwa [List.length_map] at this
  have hpow : 4 ^ ws.length ≤ 4 ^ 7 := Nat.pow_le_pow_right (by decide) hl
  rw [romWordOf, BitVec.toNat_ofNat, packWidths_eq_ofDigits, romDigits, Nat.ofDigits_append, List.length_map]
  split
  next h =>
    rw [h, Nat.ofDigits_singleton]
    omega
  next =>
    rw [Nat.ofDigits_nil]
    omega

/-! ### Reading -/

/-- Digit `k` of a number in base 4. -/
theorem ofDigits_div_pow_mod {ds : List Nat} (hd : ∀ d ∈ ds, d < 4) (k : Nat) :
    Nat.ofDigits 4 ds / 4 ^ k % 4 = ds.getD k 0 := by
  rw [Nat.ofDigits_div_pow_eq_ofDigits_drop k (by decide) ds hd]
  obtain hk | hk := Nat.lt_or_ge k ds.length
  · rw [List.drop_eq_getElem_cons hk, Nat.ofDigits_cons, Nat.add_mul_mod_self_left,
      Nat.mod_eq_of_lt (hd _ (List.getElem_mem hk)), List.getD_eq_getElem _ _ hk]
  · rw [List.drop_eq_nil_of_le hk, Nat.ofDigits_nil, List.getD_eq_default _ _ hk]

theorem romField_toNat (w : RomWord) (k : Nat) : (romField w k).toNat = w.toNat / 4 ^ k % 4 := by
  rw [romField, BitVec.extractLsb'_toNat, Nat.shiftRight_eq_div_pow, Nat.pow_mul]

/-- A word has no bit above `n7`, so `n7` is a whole base-4 digit. -/
theorem romN7_toNat (w : RomWord) : (romN7 w).toNat = w.toNat / 4 ^ 7 % 4 := by
  have hlt := w.isLt
  rw [romN7, BitVec.getLsbD, Nat.toNat_testBit]
  omega

theorem romField_romWordOf {ws : List Nat} (hl : ws.length ≤ 7) (hw : ∀ x ∈ ws, 1 ≤ x ∧ x ≤ 4) (k : Nat) :
    (romField (romWordOf ws) k).toNat = (romDigits ws).getD k 0 := by
  rw [romField_toNat, romWordOf_toNat hl hw, ofDigits_div_pow_mod (romDigits_lt hw)]

theorem romWidth_romWordOf {ws : List Nat} (hl : ws.length ≤ 7) (hw : ∀ x ∈ ws, 1 ≤ x ∧ x ≤ 4) {k : Nat}
    (hk : k < ws.length) : romWidth (romWordOf ws) k = ws[k] := by
  have := hw ws[k] (List.getElem_mem hk)
  rw [romWidth, romField_romWordOf hl hw, romDigits_getD_of_lt ws hk]
  omega

/-- Settles O4: the declared length is read from digit 7, and the widths from the digits below it. -/
theorem romWordHoldsItsWidths : Obligations.RomWordHoldsItsWidths := by
  intro ws hl hw
  have hle : ws.length ≤ 7 := by omega
  have hlen : romLen (romWordOf ws) = ws.length := by
    rw [romLen, romN7_toNat, romWordOf_toNat hle hw, ofDigits_div_pow_mod (romDigits_lt hw),
      romDigits_getD_seven hle]
    split <;> omega
  refine ⟨hlen, List.ext_getElem (by rw [romWidths_length, hlen]) fun k _ hk => ?_⟩
  simp [romWidths, romWidth_romWordOf hle hw hk]

end Sys2Proof.Machine
end

section
/-! Segment words (30_encoding.md R95, R96): the fields the expander packs, and the words a step delivers. -/

namespace Sys2Proof.Machine

/-! ### The fields -/

/-- Settles O5, at every bit pattern. -/
theorem segmentWordFields : Obligations.SegmentWordFields := by
  unfold Obligations.SegmentWordFields
  decide

theorem segWordWidth_packSegment (last bar : Bool) (width : BitVec 3) :
    segWordWidth (packSegment last bar width) = width.toNat :=
  congrArg BitVec.toNat (segmentWordFields last bar width).1

/-- R190: the width of a segment is its field of the symbol word plus 1, and three bits hold it. -/
theorem segmentWidth_toNat (w : RomWord) (k : BitVec 3) : (segmentWidth w k).toNat = romWidth w k.toNat := by
  have hlt := (romField w k.toNat).isLt
  rw [segmentWidth, romWidth, BitVec.toNat_add, BitVec.toNat_setWidth, BitVec.toNat_ofNat]
  omega

theorem romWidth_bounds (w : RomWord) (k : Nat) : 1 ≤ romWidth w k ∧ romWidth w k ≤ 4 := by
  have hlt := (romField w k).isLt
  rw [romWidth]
  omega

/-! ### The port -/

theorem segWordPort_of_valid {s : State} {x : SegWord} (hv : segValid s = true) :
    segWordPort s = .ok x ↔ ∃ w, currentSegment s = .ok w ∧ x = segmentWord s w := by
  rw [segWordPort, if_pos hv]
  cases currentSegment s <;> simp [eq_comm]

theorem segWordPort_of_not_valid {s : State} (hv : segValid s = false) : segWordPort s = .ok 0#5 :=
  if_neg (by simp [hv])

theorem segWordPort_width {s : State} {x : SegWord} (hx : segWordPort s = .ok x) (hv : segValid s = true) :
    1 ≤ segWordWidth x ∧ segWordWidth x ≤ 4 := by
  obtain ⟨w, -, rfl⟩ := (segWordPort_of_valid hv).1 hx
  rw [segmentWord, segWordWidth_packSegment, segmentWidth_toNat]
  exact romWidth_bounds w _

/-! ### The sink's record -/

theorem exec_delivered {i : Instr} {s t : State} (hx : exec i s = .next t) : t.delivered = s.delivered := by
  obtain ⟨-, ⟨rfl, -⟩ | ⟨-, -, rfl⟩ | ⟨_, -, -, -, -, -, rfl⟩ | ⟨_, -, -, -, -, rfl⟩ | ⟨-, -, rfl⟩⟩ := exec_cases hx
  all_goals rfl

@[simp] theorem advance_delivered (s : State) (w : RomWord) : (advance s w).delivered = s.delivered := by
  rcases advance_cases s w with ⟨-, e⟩ | ⟨-, -, e⟩ | ⟨-, -, e⟩ <;> rw [e] <;> rfl

/-- R191: the word that the sink takes is the one on the port. -/
theorem segOut_delivered {s t : State} (hv : segValid s = true) (hx : segOut s = .next t) :
    ∃ x, t.delivered = s.delivered ++ [x] ∧ segWordPort s = .ok x := by
  obtain ⟨w, hw, rfl⟩ := segOut_next hx
  exact ⟨segmentWord s w, by simp, (segWordPort_of_valid hv).2 ⟨w, hw, rfl⟩⟩

/-- The port does not depend on the inputs of the coming edges. -/
theorem segWordPort_nextEdge (s : State) : segWordPort (nextEdge s) = segWordPort s :=
  rfl

/-- Settles O41: a segment transfer is the only event of an edge that adds to the sink's record. -/
theorem deliveredWidths : Obligations.DeliveredWidths := by
  refine ⟨fun _ _ => segWordPort_width, fun _ => segWordPort_of_not_valid, fun s t hx => ?_⟩
  obtain ⟨-, ⟨-, rfl⟩ | ⟨-, -, ⟨-, -, hcmd⟩ | ⟨hs, hready, hseg⟩ | ⟨-, -, rfl⟩⟩⟩ := step_cases hx
  · exact .inl rfl
  · exact .inl (by simpa using exec_delivered hcmd)
  · have hv : segValid s = true := by simp [segValid, hs]
    obtain ⟨x, hd, hport⟩ := segOut_delivered (s := nextEdge s) hv hseg
    exact .inr ⟨x, hd, segWordPort_nextEdge s ▸ hport, hv, hready⟩
  · exact .inl rfl

end Sys2Proof.Machine
end

section
/-! The assembler (30_encoding.md R102 to R104): the words of a statement, and the reading of a STR line. -/

namespace Sys2Proof.Machine

/-! ### Words -/

theorem literalData_of_lt {n : Nat} (h : n < 256) : literalData n = .ok (BitVec.ofNat 8 n) :=
  if_pos h

theorem literalData_of_ge {n : Nat} (h : 256 ≤ n) : literalData n = .error .literalTooLarge :=
  if_neg (by omega)

theorem oneWord_of_lt (make : Data → Instr) {n : Nat} (h : n < 256) :
    oneWord make n = .ok [encode (make (BitVec.ofNat 8 n))] := by
  rw [oneWord, literalData_of_lt h]

theorem oneWord_of_ge (make : Data → Instr) {n : Nat} (h : 256 ≤ n) : oneWord make n = .error .literalTooLarge := by
  rw [oneWord, literalData_of_ge h]

/-- R90: the number of a command word is `op` times 256 plus `data`. -/
theorem append_ofNat_data (op : BitVec 2) {n : Nat} (h : n < 256) :
    op ++ BitVec.ofNat 8 n = BitVec.ofNat 10 (256 * op.toNat + n) := by
  have hop := op.isLt
  apply BitVec.eq_of_toNat_eq
  rw [BitVec.toNat_append, BitVec.toNat_ofNat, BitVec.toNat_ofNat, Nat.mod_eq_of_lt h,
    ← Nat.shiftLeft_add_eq_or_of_lt h, Nat.shiftLeft_eq]
  omega

/-- Settles O6: each statement is one word, `{op, data}`. -/
theorem assemblerStatementWords : Obligations.AssemblerStatementWords := by
  refine ⟨fun n hn => ?_, ⟨by decide, by decide⟩, fun n hn => ?_⟩
  · simp [stmtWords, oneWord_of_lt _ hn, encode, append_ofNat_data _ hn]
  · simp [stmtWords, oneWord_of_ge _ hn]

/-! ### Lines -/

theorem splitLines_of_no_newline {l : List Nat} (h : 10 ∉ l) : splitLines l = [l] := by
  induction l with
  | nil => rfl
  | cons c cs ih =>
    obtain ⟨hc, hcs⟩ := List.ne_and_not_mem_of_not_mem_cons h
    simp [splitLines, ih hcs, Ne.symm hc]

theorem assembleLines_singleton (l : List Nat) : assembleLines [l] = lineWords l := by
  simp only [assembleLines]
  cases lineWords l <;> simp

/-- A source text of one line. -/
theorem assemble_of_no_newline {source : List Char} (h : 10 ∉ codesOf source) :
    assemble source = lineWords (codesOf source) := by
  rw [assemble, splitLines_of_no_newline h, assembleLines_singleton]

/-! ### Blanks and comments -/

theorem trim_blank_cons {c : Nat} (l : List Nat) (h : isBlank c = true) : trim (c :: l) = trim l := by
  simp [trim, h]

theorem trim_of_nonblank_ends {a b : Nat} (l : List Nat) (ha : isBlank a = false) (hb : isBlank b = false) :
    trim (a :: (l ++ [b])) = a :: (l ++ [b]) := by
  simp [trim, ha, hb]

/-- Outside quotes a character that is neither a semicolon nor a quote is kept. -/
theorem stripComment_plain {c : Nat} (cs : List Nat) (h : c ≠ 59 ∧ c ≠ 34 ∧ c ≠ 39) :
    stripComment none false (c :: cs) = c :: stripComment none false cs := by
  simp [stripComment, h]

/-- Inside double quotes everything up to the closing quote is kept, semicolons too (log entry 15). -/
theorem stripComment_quoted {text : List Nat} (h : ∀ c ∈ text, c ≠ 34 ∧ c ≠ 92) :
    stripComment (some 34) false (text ++ [34]) = text ++ [34] := by
  induction text with
  | nil => rfl
  | cons c cs ih =>
    obtain ⟨hc, hcs⟩ := List.forall_mem_cons.1 h
    simp [stripComment, hc, ih hcs]

/-! ### STR -/

/-- A character that is neither a quote nor a backslash stands for its code. -/
theorem stringBytes_plain {c : Nat} (rest : List Nat) (h : c < 256 ∧ c ≠ 34 ∧ c ≠ 92) :
    stringBytes (c :: rest) = (stringBytes rest).map (BitVec.ofNat 8 c :: ·) := by
  rw [stringBytes.eq_def]
  simp [h]

/-- Without escapes the bytes of a string are its characters (R103). -/
theorem stringBytes_quoted {text : List Nat} (h : ∀ c ∈ text, c < 256 ∧ c ≠ 34 ∧ c ≠ 92) :
    stringBytes (text ++ [34]) = some (text.map (BitVec.ofNat 8)) := by
  induction text with
  | nil => simp [stringBytes]
  | cons c cs ih =>
    obtain ⟨hc, hcs⟩ := List.forall_mem_cons.1 h
    simp [stringBytes_plain _ hc, ih hcs]

/-- The character codes of the line `STR "text"`. -/
def strLine (text : List Nat) : List Nat :=
  83 :: 84 :: 82 :: 32 :: 34 :: (text ++ [34])

theorem codesOf_strLine (text : List Char) :
    codesOf (['S', 'T', 'R', ' ', Char.ofNat 34] ++ text ++ [Char.ofNat 34]) = strLine (codesOf text) := by
  simp [codesOf, strLine]

theorem stripComment_strLine {text : List Nat} (h : ∀ c ∈ text, c ≠ 34 ∧ c ≠ 92) :
    stripComment none false (strLine text) = strLine text := by
  simp [strLine, stripComment, stripComment_quoted h]

theorem trim_strLine (text : List Nat) : trim (strLine text) = strLine text :=
  trim_of_nonblank_ends (84 :: 82 :: 32 :: 34 :: text) rfl rfl

/-- The mnemonic ends at the first blank, and the operand begins at its opening quote. -/
theorem parseText_strLine {text : List Nat} (h : ∀ c ∈ text, c < 256 ∧ c ≠ 34 ∧ c ≠ 92) :
    parseText (strLine text) = .ok (some (.strStmt (text.map (BitVec.ofNat 8)))) := by
  have hmnemonic : ((strLine text).takeWhile (!isBlank ·)).map capital = codesOf ['S', 'T', 'R'] := rfl
  have hoperand : trim ((strLine text).dropWhile (!isBlank ·)) = 34 :: (text ++ [34]) :=
    (trim_blank_cons _ rfl).trans (trim_of_nonblank_ends text rfl rfl)
  have hstring : stringLiteral (34 :: (text ++ [34])) = .ok (text.map (BitVec.ofNat 8)) := by
    simp [stringLiteral, stringBytes_quoted h]
  rw [parseText, if_neg (by simp [strLine]), hmnemonic, hoperand]
  simp [statement, codesOf, hstring, Except.map]

theorem lineWords_strLine {text : List Nat} (h : ∀ c ∈ text, c < 256 ∧ c ≠ 34 ∧ c ≠ 92) :
    lineWords (strLine text) = .ok (strWords (text.map (BitVec.ofNat 8))) := by
  have hstrip := stripComment_strLine fun c hc => (h c hc).2
  simp only [lineWords, parseLine, hstrip, trim_strLine, parseText_strLine h, stmtWords]

/-- Settles O7: the line is one line, and its quoted text is read character by character. -/
theorem strTextAssembles : Obligations.StrTextAssembles := by
  intro text h
  have hcodes : ∀ c ∈ codesOf text, 32 ≤ c ∧ c ≤ 126 ∧ c ≠ 34 ∧ c ≠ 92 := by
    simpa [codesOf] using h
  have hline : 10 ∉ strLine (codesOf text) := by
    have hten : 10 ∉ codesOf text := fun hmem => absurd (hcodes 10 hmem).1 (by decide)
    simp [strLine, hten]
  have hplain : ∀ c ∈ codesOf text, c < 256 ∧ c ≠ 34 ∧ c ≠ 92 := fun c hc => by
    have := hcodes c hc
    omega
  rw [assemble_of_no_newline (by rwa [codesOf_strLine]), codesOf_strLine, lineWords_strLine hplain]
  simp [strWords, codesOf]

/-- Settles O8: each text of the table is read by evaluation. -/
theorem assemblerExamples : Obligations.AssemblerExamples := by
  unfold Obligations.AssemblerExamples
  decide +kernel

end Sys2Proof.Machine
end

section
/-! Stuck states (30_encoding.md R99, R100), and the data bits that BEGIN and END ignore (R92). -/

namespace Sys2Proof.Machine

/-! ### Stuck states -/

theorem stuckFault_of_state_unused {s : State} (h : s.state.unused = true) : stuckFault s = some .stuckState :=
  if_pos h

theorem stuckFault_of_errCode_unused {s : State} (hs : s.state.unused = false) (h : s.errCode.unused = true) :
    stuckFault s = some .stuckErrCode := by
  simp [stuckFault, hs, h]

theorem onTransfer_stuck {s : State} {f : Fault} (arm : Out) (h : stuckFault s = some f) :
    onTransfer s arm = .fault f := by
  rw [onTransfer, h]

/-- A stuck block takes no command. -/
theorem exec_stuck (i : Instr) {s : State} {f : Fault} (h : stuckFault s = some f) : exec i s = .fault f := by
  cases i <;> exact onTransfer_stuck _ h

/-- At an edge without reset a stuck block stops, whatever its ports show. -/
theorem step_stuck {s : State} {p : Pins} {rest : List Pins} {f : Fault} (hw : s.cfg.wellFormed = true)
    (hin : s.inputs = p :: rest) (hr : p.rst = false) (h : stuckFault s = some f) : step s = .fault f := by
  rw [step_eq_edgeEvent hw, edgeEvent, pins_of_inputs hin]
  simp [hr, h]

/-- Settles O20: the encodings are the tables', and each unused one names why the block is stuck. -/
theorem unusedEncodingsAreStuck : Obligations.UnusedEncodingsAreStuck := by
  refine ⟨by decide, by decide, fun i s h => exec_stuck i (stuckFault_of_state_unused h),
    fun s p rest hw hin hr h => step_stuck hw hin hr (stuckFault_of_state_unused h),
    fun s p rest hw hin hr hs h => step_stuck hw hin hr (stuckFault_of_errCode_unused hs h)⟩

/-! ### Ignored data bits -/

theorem inTransaction_opened {s : State} (d : Data) (arm : Out) (hi : s.state ≠ .idle) (hd : s.state ≠ .done) :
    inTransaction s d arm = arm :=
  if_neg (by simp [hi, hd])

/-- END with no transaction open raises ProtocolError and records its data bits (R123, 60_exceptions.md R223). -/
theorem exec_end_protocol (d : Data) {s : State} (hs : s.state = .idle ∨ s.state = .done)
    (he : s.errCode.unused = false) : exec (.endCmd d) s = .next (raiseErr .protocol s.len d s) := by
  have hstuck : stuckFault s = none :=
    (stuckFault_none_iff s).2 ⟨by rcases hs with h | h <;> rw [h] <;> rfl, he⟩
  have hemit : s.state ≠ .emit := by rcases hs with h | h <;> simp [h]
  have herr : s.state ≠ .error := by rcases hs with h | h <;> simp [h]
  calc exec (.endCmd d) s
      = unlessError s (inTransaction s d (.next (closeTransaction s))) := onTransfer_ready _ hstuck hemit
    _ = inTransaction s d (.next (closeTransaction s)) := if_neg herr
    _ = .next (raiseErr .protocol s.len d s) := if_pos hs

/-- Settles O31: only the arm of ProtocolError reads END's data bits, and no arm reads BEGIN's. -/
theorem ignoredDataBits : Obligations.IgnoredDataBits := by
  refine ⟨fun _ _ _ => rfl, fun d e s hi hd => ?_, fun d s hs he => ?_,
    oneWord_of_lt .beginCmd (n := 0) (by decide), oneWord_of_lt .endCmd (n := 0) (by decide)⟩
  · simp only [exec, execEnd, inTransaction_opened _ _ hi hd]
  · exact ⟨_, exec_end_protocol d hs he, rfl, rfl⟩

end Sys2Proof.Machine
end

section
/-! The four commands (40_commands.md R120 to R124): the words of each, and what it does where it is accepted. -/

namespace Sys2Proof.Machine

/-! ### The words of a command -/

@[simp] theorem dataField_encode (i : Instr) : dataField (encode i) = dataOf i := by
  cases i <;> exact dataField_append _ _

/-- A command word is its two fields (R90). -/
theorem cmdWord_ext {w v : CmdWord} (hop : opField w = opField v) (hdata : dataField w = dataField v) : w = v := by
  rw [← opField_append_dataField w, hop, hdata, opField_append_dataField]

/-- The words of a command are those with its `op` and its data field. -/
theorem decode_eq_iff (w : CmdWord) (i : Instr) :
    decode w = i ↔ opField w = opField (encode i) ∧ dataField w = dataOf i := by
  constructor
  · rintro rfl
    rw [← dataField_encode, encode_decode]
    exact ⟨rfl, rfl⟩
  · rintro ⟨hop, hdata⟩
    rw [cmdWord_ext hop (hdata.trans (dataField_encode i).symm), decode_encode]

/-! ### Accepting and waiting -/

theorem ready_of_used {s : State} (hu : s.state.unused = false) (hne : s.state ≠ .emit)
    (he : s.errCode.unused = false) : ready s = true :=
  (ready_iff s).2 ⟨(stuckFault_none_iff s).2 ⟨hu, he⟩, hne⟩

theorem stuckFault_of_emit {s : State} (hs : s.state = .emit) (he : s.errCode.unused = false) :
    stuckFault s = none :=
  (stuckFault_none_iff s).2 ⟨by rw [hs]; rfl, he⟩

/-- In EMIT every command waits (10_state.md R21). -/
theorem exec_waits_in_emit (i : Instr) {s : State} (hstuck : stuckFault s = none) (hs : s.state = .emit) :
    cmdReady s = false ∧ exec i s = .next s := by
  refine ⟨by simp [cmdReady, hs], ?_⟩
  cases i <;> exact onTransfer_emit _ hstuck hs

/-! ### The arms of an accepted command -/

theorem exec_char_of_ready (c : Data) {s : State} (h : ready s = true) :
    exec (.charCmd c) s = unlessError s (inTransaction s c (storeChar c s)) := by
  obtain ⟨hs, he⟩ := (ready_iff s).1 h
  exact onTransfer_ready _ hs he

theorem exec_end_of_ready (d : Data) {s : State} (h : ready s = true) :
    exec (.endCmd d) s = unlessError s (inTransaction s d (.next (closeTransaction s))) := by
  obtain ⟨hs, he⟩ := (ready_iff s).1 h
  exact onTransfer_ready _ hs he

theorem exec_rsvd_of_ready (d : Data) {s : State} (h : ready s = true) :
    exec (.rsvdCmd d) s = unlessError s (.next (raiseErr .illegalCmd s.len d s)) := by
  obtain ⟨hs, he⟩ := (ready_iff s).1 h
  exact onTransfer_ready _ hs he

theorem unlessError_of_ne {s : State} (arm : Out) (h : s.state ≠ .error) : unlessError s arm = arm :=
  if_neg h

theorem unlessError_error {s : State} (arm : Out) (h : s.state = .error) : unlessError s arm = .next s :=
  if_pos h

/-- In LOAD the tests on ERROR and on an open transaction both pass. -/
theorem arms_of_load {s : State} (d : Data) (arm : Out) (h : s.state = .load) :
    unlessError s (inTransaction s d arm) = arm := by
  rw [unlessError_of_ne _ (by simp [h]), inTransaction_opened _ _ (by simp [h]) (by simp [h])]

theorem ready_of_load {s : State} (h : s.state = .load) (he : s.errCode.unused = false) : ready s = true :=
  ready_of_used (by rw [h]; rfl) (by simp [h]) he

/-- `raiseErr` at `len` takes the error and writes nothing else (60_exceptions.md R226). -/
theorem raised_raiseErr (code : ErrCode) (d : Data) (s : State) : Raised code d s (raiseErr code s.len d s) :=
  ⟨rfl, rfl, rfl, rfl, rfl, rfl, rfl, fun _ => rfl, ⟨rfl, rfl⟩, ⟨rfl, rfl, rfl⟩⟩

/-! ### BEGIN -/

theorem ready_openTransaction (s : State) : ready (openTransaction s) = true :=
  ready_of_used rfl (by simp) rfl

@[simp] theorem openTransaction_openTransaction (s : State) :
    openTransaction (openTransaction s) = openTransaction s := rfl

/-- Settles O21: BEGIN writes every register with a constant, so a second BEGIN writes nothing new. -/
theorem beginOpensTransaction : Obligations.BeginOpensTransaction := by
  refine ⟨fun w => ?_, fun d s h => ?_, fun d s hstuck hs => exec_waits_in_emit _ hstuck hs, fun d e s h => ?_⟩
  · change opField w = 0b00#2 ↔ _
    simp [decode_eq_iff, encode, dataOf]
  · exact ⟨_, exec_begin_of_ready d h, rfl, rfl, rfl, rfl, rfl, rfl, rfl, rfl, rfl, noEntry_of_buf_nil rfl,
      rfl, rfl, rfl⟩
  · simp [execAll, exec_begin_of_ready _ h, exec_begin_of_ready e (ready_openTransaction s)]

/-! ### CHAR -/

/-- CHAR in LOAD runs the tests of R122. -/
theorem exec_char_of_load (c : Data) {s : State} (h : s.state = .load) (he : s.errCode.unused = false) :
    exec (.charCmd c) s = storeChar c s :=
  (exec_char_of_ready c (ready_of_load h he)).trans (arms_of_load _ _ h)

theorem charAccepted_of_bounds {c : Data} (hlo : 32 ≤ c.toNat) (hhi : c.toNat ≤ 126) : charAccepted c = true := by
  simp [charAccepted, charCode, charLo, charHi, hlo, hhi]

/-- With room in BUF an accepted character is stored. -/
theorem storeChar_of_accepted {c : Data} {s : State} (hlt : s.len < s.cfg.maxLen) (hc : charAccepted c = true) :
    storeChar c s = .next (appendSymbol (charIndex c) (accUpdate s.acc (charIndex c) (charWeight s)) s) := by
  simp [storeChar, hlt, hlt.ne, hc]

/-- Settles O22: the character is accepted, and its index is its code less 32. -/
theorem charStoresSymbol : Obligations.CharStoresSymbol := by
  intro c s hs he hlt hlo hhi
  have hc := charAccepted_of_bounds hlo hhi
  have hidx := charIndex_toNat hc
  have hacc : (accUpdate s.acc (charIndex c) (charWeight s)).toNat =
      (s.acc.toNat + (c.toNat - 32) * (s.len + 1)) % 103 := by
    rw [accUpdate_toNat, hidx]; rfl
  exact ⟨_, (exec_char_of_load c hs he).trans (storeChar_of_accepted hlt hc), rfl, hacc,
    ⟨_, bufRead_appendSymbol_same _ _ hlt, hidx⟩, appendSymbol_sameBufExcept _ _ s, hs, rfl,
    ⟨rfl, rfl, rfl⟩, ⟨rfl, rfl⟩, ⟨rfl, rfl, rfl⟩⟩

/-! ### END -/

/-- END in LOAD closes the transaction. -/
theorem exec_end_of_load (d : Data) {s : State} (h : s.state = .load) (he : s.errCode.unused = false) :
    exec (.endCmd d) s = .next (closeTransaction s) :=
  (exec_end_of_ready d (ready_of_load h he)).trans (arms_of_load _ _ h)

/-- Settles O24: `closeTransaction` writes `ck_idx`, the state and the pointers. -/
theorem endStartsStream : Obligations.EndStartsStream :=
  fun d _ hs he => ⟨_, exec_end_of_load d hs he, rfl, rfl, rfl, rfl, rfl, rfl, rfl, rfl, rfl,
    ⟨rfl, rfl, rfl⟩, fun _ => rfl, ⟨rfl, rfl, rfl⟩⟩

/-- Settles O25: the error recorded is `raiseErr` at `len` with END's data bits. -/
theorem endOutsideTransaction : Obligations.EndOutsideTransaction :=
  fun d s hs he => ⟨_, exec_end_protocol d hs he, raised_raiseErr .protocol d s⟩

/-! ### RSVD -/

/-- Settles O26: RSVD has one test, on ERROR, before it raises. -/
theorem rsvdRaisesIllegalCommand : Obligations.RsvdRaisesIllegalCommand := by
  refine ⟨fun w => ?_, fun d s hs he => ?_, fun d s hs he => ?_,
    fun d s hs he => exec_waits_in_emit _ (stuckFault_of_emit hs he) hs⟩
  · change opField w = 0b11#2 ↔ ∃ d, decode w = .rsvdCmd d ∧ d = dataField w
    simp [decode_eq_iff, encode, dataOf]
  · have hready : ready s = true := by
      rcases hs with h | h | h <;> exact ready_of_used (by rw [h]; rfl) (by simp [h]) he
    have herr : s.state ≠ .error := by rcases hs with h | h | h <;> simp [h]
    exact ⟨_, (exec_rsvd_of_ready d hready).trans (unlessError_of_ne _ herr), raised_raiseErr .illegalCmd d s⟩
  · have hready : ready s = true := ready_of_used (by rw [hs]; rfl) (by simp [hs]) he
    exact ⟨by simp [cmdReady, hs], (exec_rsvd_of_ready d hready).trans (unlessError_error _ hs)⟩

/-! ### The dispatch -/

/-- Settles O27: for each value of `op` the ordered tests leave the arms of its command. -/
theorem dispatchOrder : Obligations.DispatchOrder := by
  refine ⟨fun w s h => ?_, fun w s hs he => exec_waits_in_emit _ (stuckFault_of_emit hs he) hs⟩
  have hcases := decode_cases w
  simp only [opField, dataField] at hcases
  rcases hcases with ⟨hop, hd⟩ | ⟨hop, hd⟩ | ⟨hop, hd⟩ | ⟨hop, hd⟩
  · simp [hd, hop, exec_begin_of_ready _ h]
  · simp [hd, hop, exec_char_of_ready _ h, unlessError, inTransaction]
  · simp [hd, hop, exec_end_of_ready _ h, unlessError, inTransaction]
  · simp [hd, hop, exec_rsvd_of_ready _ h, unlessError]

end Sys2Proof.Machine
end

section
/-! The checksum of 41_checksum.md: the update of one accepted character, the registers after a list of them, and the
values the checksum index takes. -/

namespace Sys2Proof.Machine

/-! ### One accepted character -/

/-- The writes of a CHAR that R122 accepts. -/
def acceptChar (c : Data) (s : State) : State :=
  appendSymbol (charIndex c) (accUpdate s.acc (charIndex c) (charWeight s)) s

theorem exec_char_eq_acceptChar {c : Data} {s : State} (hs : s.state = .load) (he : s.errCode.unused = false)
    (hlt : s.len < s.cfg.maxLen) (hc : charAccepted c = true) : exec (.charCmd c) s = .next (acceptChar c s) :=
  (exec_char_of_load c hs he).trans (storeChar_of_accepted hlt hc)

@[simp] theorem acceptChar_cfg (c : Data) (s : State) : (acceptChar c s).cfg = s.cfg := rfl
@[simp] theorem acceptChar_state (c : Data) (s : State) : (acceptChar c s).state = s.state := rfl
@[simp] theorem acceptChar_errCode (c : Data) (s : State) : (acceptChar c s).errCode = s.errCode := rfl
@[simp] theorem acceptChar_len (c : Data) (s : State) : (acceptChar c s).len = s.len + 1 := rfl

/-- R152: the sum and the product are exact, only the residue is stored. -/
theorem acceptChar_acc (c : Data) (s : State) :
    (acceptChar c s).acc.toNat = (s.acc.toNat + (charIndex c).toNat * (s.len + 1)) % 103 :=
  accUpdate_toNat _ _ _

theorem acceptChar_acc_le (c : Data) (s : State) : (acceptChar c s).acc.toNat ≤ 102 :=
  accUpdate_le _ _ _

theorem acceptChar_bufRead_same (c : Data) {s : State} (hlt : s.len < s.cfg.maxLen) :
    bufRead (acceptChar c s) s.len = .ok (charIndex c) :=
  bufRead_appendSymbol_same _ _ hlt

theorem acceptChar_sameBufExcept (c : Data) (s : State) : SameBufExcept s.len s (acceptChar c s) :=
  appendSymbol_sameBufExcept _ _ s

/-- Settles O35: the operands' ranges bound the sum, and reducing a factor keeps the residue. -/
theorem accumulatorUpdate : Obligations.AccumulatorUpdate := by
  intro c s hs he hacc hlt hc
  have hidx := charIndex_le hc
  have hprod : (charIndex c).toNat * (s.len + 1) ≤ 94 * s.cfg.maxLen := Nat.mul_le_mul hidx hlt
  have hweight : s.acc.toNat + (charIndex c).toNat * (s.len + 1) ≡
      s.acc.toNat + (charIndex c).toNat * ((s.len + 1) % 103) [MOD 103] :=
    ((Nat.mod_modEq _ _).symm.mul_left _).add_left _
  exact ⟨_, exec_char_eq_acceptChar hs he hlt hc, hidx, Nat.succ_pos _, hlt, Nat.add_le_add hacc hprod,
    acceptChar_acc c s, (acceptChar_acc c s).trans hweight, acceptChar_acc_le c s, rfl, rfl, rfl⟩

/-! ### A list of accepted characters -/

/-- The writes of one CHAR per character of the list, each accepted. -/
def acceptChars : List Data → State → State
  | [], s => s
  | c :: cs, s => acceptChars cs (acceptChar c s)

@[simp] theorem acceptChars_cfg (cs : List Data) (s : State) : (acceptChars cs s).cfg = s.cfg := by
  induction cs generalizing s with
  | nil => rfl
  | cons c cs ih => exact ih _

@[simp] theorem acceptChars_state (cs : List Data) (s : State) : (acceptChars cs s).state = s.state := by
  induction cs generalizing s with
  | nil => rfl
  | cons c cs ih => exact ih _

@[simp] theorem acceptChars_errCode (cs : List Data) (s : State) : (acceptChars cs s).errCode = s.errCode := by
  induction cs generalizing s with
  | nil => rfl
  | cons c cs ih => exact ih _

@[simp] theorem acceptChars_len (cs : List Data) (s : State) : (acceptChars cs s).len = s.len + cs.length := by
  induction cs generalizing s with
  | nil => rfl
  | cons c cs ih => rw [acceptChars, ih, acceptChar_len, List.length_cons]; omega

/-- In LOAD, with room for all of them, accepted characters are stored one after another. -/
theorem execAll_chars_eq_acceptChars {cs : List Data} {s : State} (hs : s.state = .load)
    (he : s.errCode.unused = false) (hroom : s.len + cs.length ≤ s.cfg.maxLen) (hall : cs.all charAccepted = true) :
    execAll (cs.map .charCmd) s = .next (acceptChars cs s) := by
  induction cs generalizing s with
  | nil => rfl
  | cons c cs ih =>
    obtain ⟨hc, hcs⟩ := Bool.and_eq_true_iff.1 hall
    rw [List.length_cons] at hroom
    simp only [List.map_cons, execAll, exec_char_eq_acceptChar hs he (by omega) hc]
    exact ih hs he (by rw [acceptChar_len, acceptChar_cfg]; omega) hcs

/-- A later character does not write the entries below `len`. -/
theorem acceptChars_bufRead_of_lt (cs : List Data) {s : State} {k : Nat} (hk : k < s.len) :
    bufRead (acceptChars cs s) k = bufRead s k := by
  induction cs generalizing s with
  | nil => rfl
  | cons c cs ih =>
    calc bufRead (acceptChars cs (acceptChar c s)) k
        _ = bufRead (acceptChar c s) k := ih (Nat.lt_succ_of_lt hk)
        _ = bufRead s k := acceptChar_sameBufExcept c s k hk.ne

/-- The `i`-th character's symbol index stands in the `i`-th entry from the old `len` on. -/
theorem acceptChars_bufRead {cs : List Data} {s : State} (hroom : s.len + cs.length ≤ s.cfg.maxLen) {i : Nat}
    {c : Data} (hi : cs[i]? = some c) : bufRead (acceptChars cs s) (s.len + i) = .ok (charIndex c) := by
  induction cs generalizing s i with
  | nil => simp at hi
  | cons d cs ih =>
    rw [List.length_cons] at hroom
    cases i with
    | zero =>
      obtain rfl : d = c := by simpa using hi
      exact (acceptChars_bufRead_of_lt cs (Nat.lt_succ_self s.len)).trans (acceptChar_bufRead_same d (by omega))
    | succ i =>
      have hrest := ih (s := acceptChar d s) (i := i) (by rw [acceptChar_len, acceptChar_cfg]; omega) hi
      rwa [acceptChar_len, Nat.add_assoc, Nat.add_comm 1 i] at hrest

theorem charIndex_toNat_eq_refIndex {c : Data} (hc : charAccepted c = true) : (charIndex c).toNat = refIndex c :=
  charIndex_toNat hc

/-- R153's induction: mod 103, each character adds its term of the weighted sum to the accumulator. -/
theorem acceptChars_acc {cs : List Data} {s : State} (hacc : s.acc.toNat ≤ 102)
    (hall : cs.all charAccepted = true) :
    (acceptChars cs s).acc.toNat = (s.acc.toNat + weightedSum cs s.len) % 103 := by
  induction cs generalizing s with
  | nil => exact (Nat.mod_eq_of_lt (Nat.lt_succ_of_le hacc)).symm
  | cons c cs ih =>
    obtain ⟨hc, hcs⟩ := Bool.and_eq_true_iff.1 hall
    calc (acceptChars cs (acceptChar c s)).acc.toNat
        _ = ((acceptChar c s).acc.toNat + weightedSum cs (s.len + 1)) % 103 := ih (acceptChar_acc_le c s) hcs
        _ = ((s.acc.toNat + refIndex c * (s.len + 1)) % 103 + weightedSum cs (s.len + 1)) % 103 := by
          rw [acceptChar_acc, charIndex_toNat_eq_refIndex hc]
        _ = (s.acc.toNat + weightedSum (c :: cs) s.len) % 103 := by
          rw [Nat.mod_add_mod, Nat.add_assoc, weightedSum]

/-- The seed `acc = 1` of R151 is 104 mod 103, so after BEGIN the accumulator is `C mod 103`. -/
theorem acceptChars_openTransaction_acc {cs : List Data} (s : State) (hall : cs.all charAccepted = true) :
    (acceptChars cs (openTransaction s)).acc.toNat = refSum cs % 103 := by
  rw [acceptChars_acc (by simp) hall]
  simp only [openTransaction_acc, openTransaction_len, refSum, ckSeed, BitVec.toNat_ofNat]
  omega

theorem acceptable_iff (cfg : Config) (cs : List Data) :
    acceptable cfg cs = true ↔ cs.length ≤ cfg.maxLen ∧ cs.all charAccepted = true := by
  rw [acceptable, Bool.and_eq_true, decide_eq_true_eq]

/-- Settles O36: BEGIN opens the transaction, `acceptChars` describes the CHARs, and END copies the accumulator. -/
theorem checksumOfTransaction : Obligations.ChecksumOfTransaction := by
  intro d0 d1 cs s hready hok
  obtain ⟨hlen, hall⟩ := (acceptable_iff s.cfg cs).1 hok
  have hroom : (openTransaction s).len + cs.length ≤ (openTransaction s).cfg.maxLen := by simpa using hlen
  have herr : (acceptChars cs (openTransaction s)).errCode.unused = false := by rw [acceptChars_errCode]; rfl
  have hload : (acceptChars cs (openTransaction s)).state = .load := acceptChars_state cs _
  have hrun : execAll (.beginCmd d0 :: cs.map .charCmd) s = .next (acceptChars cs (openTransaction s)) := by
    rw [execAll, exec_begin_of_ready d0 hready]
    exact execAll_chars_eq_acceptChars rfl rfl hroom hall
  have hacc := acceptChars_openTransaction_acc s hall
  refine ⟨_, _, hrun, hload, by simp, hacc, fun i c hi => ?_, exec_end_of_load d1 hload herr, rfl, hacc, rfl⟩
  simpa using acceptChars_bufRead hroom hi

/-! ### The values of the checksum index -/

/-- The character code with symbol index `i` (R93). -/
def charOfIndex (i : Nat) : Data :=
  BitVec.ofNat 8 (32 + i)

theorem charOfIndex_toNat {i : Nat} (hi : i ≤ 94) : (charOfIndex i).toNat = 32 + i := by
  rw [charOfIndex, BitVec.toNat_ofNat, Nat.mod_eq_of_lt (by omega)]

theorem charAccepted_charOfIndex {i : Nat} (hi : i ≤ 94) : charAccepted (charOfIndex i) = true :=
  have hcode := charOfIndex_toNat hi
  charAccepted_of_bounds (by omega) (by omega)

theorem refIndex_charOfIndex {i : Nat} (hi : i ≤ 94) : refIndex (charOfIndex i) = i := by
  rw [refIndex, charCode, charOfIndex_toNat hi, charLo, Nat.add_sub_cancel_left]

theorem refChecksum_pair {i j : Nat} (hi : i ≤ 94) (hj : j ≤ 94) :
    refChecksum [charOfIndex i, charOfIndex j] = (104 + (i + 2 * j)) % 103 := by
  simp [refChecksum, refSum, weightedSum, ckSeed, ckMod, refIndex_charOfIndex hi, refIndex_charOfIndex hj,
    Nat.mul_comm]

theorem refChecksum_le (cs : List Data) : refChecksum cs ≤ 102 :=
  Nat.le_of_lt_succ (Nat.mod_lt _ (by decide))

/-- Settles O37: with `m` such that `104 + m` is `k` mod 103, the characters of indices `m % 2` and `m / 2` have the
weighted sum `m`. -/
theorem everyChecksumReached : Obligations.EveryChecksumReached := by
  refine ⟨refChecksum_le, fun k hk => ?_⟩
  obtain ⟨m, hm, hmk⟩ : ∃ m, m ≤ 102 ∧ (104 + m) % 103 = k := ⟨(k + 102) % 103, by omega, by omega⟩
  have hi : m % 2 ≤ 94 := by omega
  have hj : m / 2 ≤ 94 := by omega
  refine ⟨[charOfIndex (m % 2), charOfIndex (m / 2)], le_rfl, ?_, ?_⟩
  · simp [charAccepted_charOfIndex hi, charAccepted_charOfIndex hj]
  · rw [refChecksum_pair hi hj, Nat.mod_add_div, hmk]

end Sys2Proof.Machine
end

section
/-! The one event of an edge without reset, told from the state and the ports (10_state.md R21, R22, R237). -/

namespace Sys2Proof.Machine

theorem edgeEvent_of_step {s t : State} (hx : step s = .next t) (hr : (pins s).rst = false) :
    stuckFault s = none ∧ edgeEvent s = .next t := by
  obtain ⟨hw, ⟨hrst, -⟩ | ⟨-, hs, -⟩⟩ := step_cases hx
  · simp [hr] at hrst
  · exact ⟨hs, (step_eq_edgeEvent hw).symm.trans hx⟩

/-- A command transfer (10_state.md R21). -/
theorem step_command {s t : State} (hx : step s = .next t) (hr : (pins s).rst = false)
    (hv : (pins s).cmdValid = true) (he : s.state ≠ .emit) :
    ready (nextEdge s) = true ∧ exec (decode (pins s).cmdWord) (nextEdge s) = .next t := by
  obtain ⟨hs, hedge⟩ := edgeEvent_of_step hx hr
  refine ⟨(ready_iff s).2 ⟨hs, he⟩, ?_⟩
  simpa [edgeEvent_of_no_reset hr hs, hv, cmdReady, he] using hedge

/-- A segment transfer (10_state.md R22). -/
theorem step_segment {s t : State} (hx : step s = .next t) (hr : (pins s).rst = false) (he : s.state = .emit)
    (hseg : (pins s).segReady = true) : segOut (nextEdge s) = .next t := by
  obtain ⟨hs, hedge⟩ := edgeEvent_of_step hx hr
  simpa [edgeEvent_of_no_reset hr hs, cmdReady, segValid, he, hseg] using hedge

/-- In EMIT an edge without reset at which the sink does not accept changes no register. -/
theorem step_stall {s t : State} (hx : step s = .next t) (hr : (pins s).rst = false) (he : s.state = .emit)
    (hseg : (pins s).segReady = false) : t = nextEdge s := by
  obtain ⟨hs, hedge⟩ := edgeEvent_of_step hx hr
  obtain rfl : nextEdge s = t := by simpa [edgeEvent_of_no_reset hr hs, cmdReady, he, hseg] using hedge
  rfl

/-- Outside EMIT an edge without reset and without a command changes no register. -/
theorem step_no_command {s t : State} (hx : step s = .next t) (hr : (pins s).rst = false) (he : s.state ≠ .emit)
    (hv : (pins s).cmdValid = false) : t = nextEdge s := by
  obtain ⟨hs, hedge⟩ := edgeEvent_of_step hx hr
  obtain rfl : nextEdge s = t := by simpa [edgeEvent_of_no_reset hr hs, segValid, he, hv] using hedge
  rfl

end Sys2Proof.Machine
end

section
/-! The concatenator (42_concatenator.md): the pattern sequence of R170 and R171, and the pointers of R173. -/

namespace Sys2Proof.Machine

/-! ### The pattern sequence -/

/-- WF1: the addresses below STOP's read symbols of six segments. -/
theorem romRead_symbol {s : State} (hw : s.cfg.wellFormed = true) {a : SymIdx} (ha : a.toNat ≤ 105) :
    ∃ w, romRead s a = .ok w ∧ romLen w = 6 := by
  obtain ⟨w, hword, hok⟩ := romWord_symbol hw ha
  exact ⟨w, (romRead_ok_iff s a w).2 hword, romLen_symbol hok⟩

/-- WF2: STOP reads a symbol of seven segments. -/
theorem romRead_stop {s : State} (hw : s.cfg.wellFormed = true) :
    ∃ w, romRead s stopSym = .ok w ∧ romLen w = 7 := by
  obtain ⟨w, hword, hok⟩ := romWord_stop hw
  exact ⟨w, (romRead_ok_iff s stopSym w).2 hword, romLen_stop hok⟩

/-- R170: the address of each position of the pattern sequence. All but the last are below STOP's. -/
theorem patternAt_answers {s : State} {k : Nat} (hf : Filled s) (hck : s.ckIdx.toNat ≤ 102) (hk : k ≤ s.len + 2) :
    ∃ a, patternAt s k = .ok a ∧
      (k = 0 → a = startB) ∧
      (1 ≤ k ∧ k ≤ s.len → bufRead s (k - 1) = .ok a ∧ a.toNat ≤ 94) ∧
      (k = s.len + 1 → a = s.ckIdx ∧ a.toNat ≤ 102) ∧
      (k = s.len + 2 → a = stopSym) ∧
      (k ≠ s.len + 2 → a.toNat ≤ 105) := by
  rcases patternAt_cases s k with ⟨hzero, e⟩ | ⟨hpos, hle, e⟩ | ⟨hlen, e⟩ | ⟨hge, e⟩
  · exact ⟨startB, e, fun _ => rfl, by omega, by omega, by omega, fun _ => by decide⟩
  · obtain ⟨v, hv, hbound⟩ := hf (k - 1) (by omega)
    exact ⟨v, e.trans hv, by omega, fun _ => ⟨hv, hbound⟩, by omega, by omega, by omega⟩
  · exact ⟨s.ckIdx, e, by omega, by omega, fun _ => ⟨rfl, hck⟩, by omega, by omega⟩
  · exact ⟨stopSym, e, by omega, by omega, by omega, fun _ => rfl, by omega⟩

/-- Settles O38: R34 (e) and (c) put every address but STOP's into the range that WF1 covers. -/
theorem patternSequence : Obligations.PatternSequence := by
  intro s k h hs hk
  obtain ⟨a, ha, hstart, hdata, hcheck, hstop, hbelow⟩ := patternAt_answers (h.filled (.inr hs)) h.ckLe hk
  obtain ⟨w, hread, hlen⟩ : ∃ w, romRead s a = .ok w ∧ romLen w = if k = s.len + 2 then 7 else 6 := by
    by_cases hlast : k = s.len + 2
    · simpa [hlast, hstop hlast] using romRead_stop h.config
    · simpa [hlast] using romRead_symbol h.config (hbelow hlast)
  exact ⟨a, w, ha, hread, (symbolAt_ok_iff s k w).2 ⟨a, ha, hread⟩, hstart, hdata, hcheck, hstop, hlen⟩

/-! ### The pointers -/

theorem endsSymbol_iff (s : State) (w : RomWord) : endsSymbol s w = true ↔ s.segPtr.toNat = romLen w - 1 :=
  beq_iff_eq

theorem isLast_iff (s : State) (w : RomWord) :
    isLast s w = true ↔ s.symPtr = s.len + 2 ∧ s.segPtr.toNat = romLen w - 1 := by
  rw [isLast, Bool.and_eq_true, beq_iff_eq, endsSymbol_iff]

/-- Inside a symbol `seg_ptr` does not wrap. -/
theorem segPtr_succ_toNat {s : State} {w : RomWord} (hlt : s.segPtr.toNat < romLen w)
    (hends : endsSymbol s w = false) : (s.segPtr + 1#3).toNat = s.segPtr.toNat + 1 := by
  have hne : s.segPtr.toNat ≠ romLen w - 1 := by simpa [endsSymbol] using hends
  have hlen := (romLen_bounds w).2
  rw [BitVec.toNat_add, BitVec.toNat_ofNat]
  omega

/-- R173: where a segment transfer moves the pointers. -/
theorem advance_pointers {s : State} {w : RomWord} (hlt : s.segPtr.toNat < romLen w) :
    ((advance s w).symPtr, (advance s w).segPtr.toNat) =
      if s.symPtr = s.len + 2 ∧ s.segPtr.toNat = romLen w - 1 then (0, 0)
      else if s.segPtr.toNat = romLen w - 1 then (s.symPtr + 1, 0)
      else (s.symPtr, s.segPtr.toNat + 1) := by
  simp only [← isLast_iff]
  simp only [← endsSymbol_iff]
  rcases advance_cases s w with ⟨hlast, e⟩ | ⟨hlast, hends, e⟩ | ⟨hlast, hends, e⟩
  · simp [e, hlast]
  · simp [e, hlast, hends]
  · simp [e, hlast, hends, segPtr_succ_toNat hlt hends]

/-- Settles O40: END clears the pointers, `advance` moves them, and a stalled edge writes no register. -/
theorem pointerSequencing : Obligations.PointerSequencing := by
  refine ⟨fun d s hs he => ⟨_, exec_end_of_load d hs he, rfl, rfl⟩, fun s h hs => ?_, fun s t hx hs hr hseg => ?_⟩
  · obtain ⟨-, w, hw, hlt⟩ := h.pointers hs
    exact ⟨w, _, hw, segOut_ok ((currentSegment_ok_iff s w).2 ⟨hw, hlt⟩), advance_pointers hlt⟩
  · rw [step_stall hx hr hs hseg]
    exact ⟨rfl, rfl⟩

end Sys2Proof.Machine
end

section
/-! The transitions of `state` (42_concatenator.md R175), event by event. -/

namespace Sys2Proof.Machine

/-! ### The commands -/

/-- R120: what a command that needs an open transaction does outside EMIT. -/
theorem guarded_next {s t : State} {d : Data} {arm : Out} (hready : ready s = true)
    (hx : unlessError s (inTransaction s d arm) = .next t) :
    s.state = .error ∧ t = s ∨ (s.state = .idle ∨ s.state = .done) ∧ t = raiseErr .protocol s.len d s ∨
      s.state = .load ∧ arm = .next t := by
  obtain ⟨hs, he⟩ := (ready_iff s).1 hready
  obtain habsorbed | ⟨hr, hx⟩ := unlessError_next hx
  · exact .inl habsorbed
  obtain hraised | ⟨hi, hd, harm⟩ := inTransaction_next hx
  · exact .inr (.inl hraised)
  · exact .inr (.inr ⟨state_load_of_not hs he hr hi hd, harm⟩)

theorem begin_transition {d : Data} {s t : State} (hready : ready s = true)
    (hx : exec (.beginCmd d) s = .next t) : t.state = .load := by
  rw [exec_begin_of_ready d hready] at hx
  obtain rfl := Host.Outcome.next.inj hx
  rfl

/-- The two rejections of R122, in their order, and the acceptance. -/
theorem storeChar_next {c : Data} {s t : State} (hx : storeChar c s = .next t) :
    s.len = s.cfg.maxLen ∧ t = raiseErr .lengthOverflow s.len c s ∨
    s.len ≠ s.cfg.maxLen ∧ charAccepted c = false ∧ t = raiseErr .invalidChar s.len c s ∨
    s.len ≠ s.cfg.maxLen ∧ charAccepted c = true ∧ t = acceptChar c s := by
  rcases storeChar_cases c s with ⟨hl, e⟩ | ⟨hl, hc, e⟩ | ⟨hl, hc, e⟩ | ⟨-, -, e⟩ <;> rw [e] at hx
  · exact .inl ⟨hl, (Host.Outcome.next.inj hx).symm⟩
  · exact .inr (.inl ⟨hl, hc, (Host.Outcome.next.inj hx).symm⟩)
  · exact .inr (.inr ⟨hl.ne, hc, (Host.Outcome.next.inj hx).symm⟩)
  · simp at hx

theorem char_transition {c : Data} {s t : State} (hready : ready s = true) (hx : exec (.charCmd c) s = .next t) :
    (t.state =
      if s.state = .load then (if s.len = s.cfg.maxLen ∨ charAccepted c = false then .error else .load)
      else .error) ∧
    (s.state = .idle ∨ s.state = .done → t.errCode = .protocol) ∧
    (s.state = .load → t.state = .error →
      t.errCode = if s.len = s.cfg.maxLen then .lengthOverflow else .invalidChar) := by
  rw [exec_char_of_ready c hready] at hx
  obtain ⟨hs, rfl⟩ | ⟨hs | hs, rfl⟩ | ⟨hs, hstore⟩ := guarded_next hready hx
  · simp [hs]
  · simp [hs]
  · simp [hs]
  · obtain ⟨hl, rfl⟩ | ⟨hl, hc, rfl⟩ | ⟨hl, hc, rfl⟩ := storeChar_next hstore
    · simp [hs, hl]
    · simp [hs, hl, hc]
    · simp [hs, hl, hc]

theorem end_transition {d : Data} {s t : State} (hready : ready s = true) (hx : exec (.endCmd d) s = .next t) :
    (t.state = if s.state = .load then .emit else .error) ∧
    (s.state = .idle ∨ s.state = .done → t.errCode = .protocol) := by
  rw [exec_end_of_ready d hready] at hx
  obtain ⟨hs, rfl⟩ | ⟨hs | hs, rfl⟩ | ⟨hs, hclose⟩ := guarded_next hready hx
  · simp [hs]
  · simp [hs]
  · simp [hs]
  · obtain rfl := Host.Outcome.next.inj hclose
    simp [hs]

theorem rsvd_transition {d : Data} {s t : State} (hready : ready s = true) (hx : exec (.rsvdCmd d) s = .next t) :
    t.state = .error ∧ (s.state ≠ .error → t.errCode = .illegalCmd) := by
  rw [exec_rsvd_of_ready d hready] at hx
  obtain ⟨hs, rfl⟩ | ⟨-, hraise⟩ := unlessError_next hx
  · exact ⟨hs, fun hn => absurd hs hn⟩
  · obtain rfl := Host.Outcome.next.inj hraise
    exact ⟨rfl, fun _ => rfl⟩

/-! ### The segment transfer -/

theorem advance_state (s : State) (w : RomWord) : (advance s w).state = if isLast s w then .done else s.state := by
  rcases advance_cases s w with ⟨hlast, e⟩ | ⟨hlast, -, e⟩ | ⟨hlast, -, e⟩ <;> simp [e, hlast]

theorem segOut_transition {s t : State} (hs : s.state = .emit) (hx : segOut s = .next t) :
    ∃ w, currentSymbol s = .ok w ∧ t.state = if isLast s w then .done else .emit := by
  obtain ⟨w, hw, rfl⟩ := segOut_next hx
  exact ⟨w, ((currentSegment_ok_iff s w).1 hw).1, by rw [emitWord_state, advance_state, hs]⟩

/-! ### The edge -/

theorem reset_transition {s t : State} (hx : step s = .next t) (hr : (pins s).rst = true) : t.state = .idle := by
  obtain ⟨-, ⟨-, rfl⟩ | ⟨hrst, -⟩⟩ := step_cases hx
  · rfl
  · simp [hr] at hrst

/-- Settles O48: each event's transition, from the state whose input sample is used up. -/
theorem controllerTransitions : Obligations.ControllerTransitions := by
  intro s t p rest hin hx
  obtain rfl := pins_of_inputs hin
  refine ⟨reset_transition hx, fun hr hv he => ?_, fun hr he hseg => ?_, fun hr he hseg => ?_, fun hr he hv => ?_⟩
  · obtain ⟨hready, hcmd⟩ := step_command hx hr hv he
    refine ⟨fun d hd => ?_, fun c hc => ?_, fun d hd => ?_, fun d hd => ?_, fun d hd hs => ?_, fun c hc hs => ?_,
      fun d hd hs => ?_⟩
    · exact begin_transition hready (hd ▸ hcmd)
    · exact (char_transition hready (hc ▸ hcmd)).1
    · exact (end_transition hready (hd ▸ hcmd)).1
    · exact (rsvd_transition hready (hd ▸ hcmd)).1
    · rcases hd with hd | hd
      · exact (char_transition hready (hd ▸ hcmd)).2.1 hs
      · exact (end_transition hready (hd ▸ hcmd)).2 hs
    · exact (char_transition hready (hc ▸ hcmd)).2.2 hs
    · exact (rsvd_transition hready (hd ▸ hcmd)).2 hs
  · exact segOut_transition (s := nextEdge s) he (step_segment hx hr he hseg)
  · rw [step_stall hx hr he hseg]
    exact he
  · rw [step_no_command hx hr he hv]
    rfl

end Sys2Proof.Machine
end

section
/-! The segment transfer of 43_expander.md R190: the bits of the word it delivers, and what it leaves unchanged. -/

namespace Sys2Proof.Machine

theorem segWordBar_packSegment (last bar : Bool) (width : BitVec 3) :
    segWordBar (packSegment last bar width) = bar :=
  (segmentWordFields last bar width).2.1

theorem segWordLast_packSegment (last bar : Bool) (width : BitVec 3) :
    segWordLast (packSegment last bar width) = last :=
  (segmentWordFields last bar width).2.2

/-- R190: even segments are bars. -/
theorem isBar_eq_decide (k : BitVec 3) : isBar k = (k.toNat % 2 == 0) := by
  rw [isBar, BitVec.getLsbD, Nat.testBit_zero]
  rcases Nat.mod_two_eq_zero_or_one k.toNat with h | h <;> simp [h]

/-- `advance` writes the pointers and `state`, and nothing else. -/
theorem advance_frame (s : State) (w : RomWord) :
    (advance s w).inputs = s.inputs ∧ (advance s w).len = s.len ∧ (advance s w).acc = s.acc ∧
      (advance s w).ckIdx = s.ckIdx ∧ SameErr s (advance s w) := by
  rcases advance_cases s w with ⟨-, e⟩ | ⟨-, -, e⟩ | ⟨-, -, e⟩ <;> rw [e] <;>
    exact ⟨rfl, rfl, rfl, rfl, rfl, rfl, rfl⟩

/-- R190: a segment transfer writes the pointers, `state` and the sink's record, and nothing else. -/
theorem segOut_frame {s t : State} (hx : segOut s = .next t) :
    t.cfg = s.cfg ∧ t.inputs = s.inputs ∧ t.len = s.len ∧ t.acc = s.acc ∧ t.ckIdx = s.ckIdx ∧
      SameErr s t ∧ SameBuf s t := by
  have hcfg := segOut_cfg hx
  have hbuf : SameBuf s t := fun k => bufRead_congr hcfg k (by rw [segOut_buf hx])
  obtain ⟨w, -, rfl⟩ := segOut_next hx
  obtain ⟨hinputs, hlen, hacc, hck, herr⟩ := advance_frame s w
  exact ⟨hcfg, hinputs, hlen, hacc, hck, herr, hbuf⟩

/-- Settles O39: R34 (f) makes the current segment readable, and the word on the port packs its width, bar and last
bits. -/
theorem segmentTransfer : Obligations.SegmentTransfer := by
  intro s h hs
  obtain ⟨-, w, hw, hlt⟩ := h.pointers hs
  have hseg : currentSegment s = .ok w := (currentSegment_ok_iff s w).2 ⟨hw, hlt⟩
  have hout := segOut_ok hseg
  have hwidth : segWordWidth (segmentWord s w) = romWidth w s.segPtr.toNat := by
    rw [segmentWord, segWordWidth_packSegment, segmentWidth_toNat]
  have hbar : segWordBar (segmentWord s w) = isBar s.segPtr := segWordBar_packSegment _ _ _
  have hlast : segWordLast (segmentWord s w) = isLast s w := segWordLast_packSegment _ _ _
  obtain ⟨hlo, hhi⟩ := romWidth_bounds w s.segPtr.toNat
  refine ⟨w, segmentWord s w, _, hw, (segWordPort_of_valid (by simp [segValid, hs])).2 ⟨w, hseg, rfl⟩, hout,
    by simp, hwidth, hwidth ▸ hlo, hwidth ▸ hhi, ?_, ?_, ?_, segOut_frame hout⟩
  · rw [hbar, isBar_eq_decide, beq_iff_eq]
  · rw [hlast, isLast_iff]
  · rw [hlast, emitWord_state, advance_state, hs]

end Sys2Proof.Machine
end

section
/-! The reference output (43_expander.md R196 to R198, R202): its symbols, its length, and what it tells of the input. -/

namespace Sys2Proof.Machine

/-! ### The symbols -/

theorem digits_of_romWord {cfg : Config} {p : Nat} {w : RomWord} (h : romWord cfg p = some w) :
    digits cfg p = romWidths w := by
  rw [digits, h]

/-- WF1: the symbols below STOP have six segments and 11 modules. -/
theorem digits_symbol {cfg : Config} (hw : cfg.wellFormed = true) {p : Nat} (hp : p ≤ 105) :
    (digits cfg p).length = 6 ∧ (digits cfg p).sum = 11 := by
  obtain ⟨w, hword, hok⟩ := romWord_symbol hw hp
  have hsum : (romWidths w).sum = symWidth := by simp_all [symbolOk]
  rw [digits_of_romWord hword, romWidths_length]
  exact ⟨romLen_symbol hok, hsum⟩

/-- WF2: STOP has seven segments and 13 modules. -/
theorem digits_stop {cfg : Config} (hw : cfg.wellFormed = true) :
    (digits cfg 106).length = 7 ∧ (digits cfg 106).sum = 13 := by
  obtain ⟨w, hword, hok⟩ := romWord_stop hw
  have hsum : (romWidths w).sum = stopWidth := by simp_all [stopOk]
  rw [digits_of_romWord hword, romWidths_length]
  exact ⟨romLen_stop hok, hsum⟩

/-- R191: a segment is one to four modules wide. -/
theorem digits_bounds {cfg : Config} {p d : Nat} (h : d ∈ digits cfg p) : 1 ≤ d ∧ d ≤ 4 := by
  unfold digits at h
  split at h
  next w _ =>
    obtain ⟨k, -, rfl⟩ := List.mem_map.1 h
    exact romWidth_bounds w k
  next => simp at h

/-- WF4: the symbols of addresses 0..102 differ. -/
theorem digits_injective {cfg : Config} (hw : cfg.wellFormed = true) {a b : Nat} (ha : a ≤ 102) (hb : b ≤ 102)
    (h : digits cfg a = digits cfg b) : a = b := by
  obtain ⟨-, hlen, -, -, h4⟩ := (configOk_iff cfg).1 hw
  have hdistinct := (wf4_iff (by omega)).1 h4
  obtain ⟨u, hu, -⟩ := romWord_symbol hw (show a ≤ 105 by omega)
  obtain ⟨v, hv, -⟩ := romWord_symbol hw (show b ≤ 105 by omega)
  rw [digits_of_romWord hu, digits_of_romWord hv] at h
  obtain hab | hab | hab := Nat.lt_trichotomy a b
  · exact absurd h (hdistinct a b u v hab hb hu hv)
  · exact hab
  · exact absurd h.symm (hdistinct b a v u hab ha hv hu)

/-! ### Lists of equally long blocks -/

/-- The `i`-th element of block `k` stands at `m * k + i` when the blocks before it have length `m`. -/
theorem getElem?_flatMap_of_length {α β : Type} {f : α → List β} {m : Nat} {l : List α} {k i : Nat} {x : α}
    (hx : l[k]? = some x) (hm : ∀ y ∈ l.take k, (f y).length = m) (hi : i < (f x).length) :
    (l.flatMap f)[m * k + i]? = (f x)[i]? := by
  induction l generalizing k with
  | nil => simp at hx
  | cons y ys ih =>
    cases k with
    | zero =>
      obtain rfl : y = x := by simpa using hx
      simp [List.getElem?_append_left hi]
    | succ k =>
      rw [List.take_succ_cons, List.forall_mem_cons] at hm
      rw [List.flatMap_cons, List.getElem?_append_right (by rw [hm.1, Nat.mul_succ]; omega), hm.1,
        show m * (k + 1) + i - m = m * k + i by rw [Nat.mul_succ]; omega]
      exact ih hx hm.2

/-- Blocks of one length that determine their element determine the list. -/
theorem flatMap_injective_of_length {α β : Type} {f : α → List β} {m : Nat} {P : α → Prop}
    (hlen : ∀ x, P x → (f x).length = m) (hinj : ∀ x y, P x → P y → f x = f y → x = y) {l r : List α}
    (hl : ∀ x ∈ l, P x) (hr : ∀ x ∈ r, P x) (hlr : l.length = r.length) (h : l.flatMap f = r.flatMap f) : l = r := by
  induction l generalizing r with
  | nil => exact (List.length_eq_zero_iff.1 hlr.symm).symm
  | cons x xs ih =>
    cases r with
    | nil => simp at hlr
    | cons y ys =>
      rw [List.forall_mem_cons] at hl hr
      rw [List.flatMap_cons, List.flatMap_cons] at h
      obtain ⟨hhead, htail⟩ := List.append_inj h ((hlen x hl.1).trans (hlen y hr.1).symm)
      rw [hinj x y hl.1 hr.1 hhead, ih hl.2 hr.2 (by simpa using hlr) htail]

/-! ### The pattern list and its digits -/

theorem refIndex_le {c : Data} (hc : charAccepted c = true) : refIndex c ≤ 94 :=
  charIndex_toNat_eq_refIndex hc ▸ charIndex_le hc

theorem refIndex_injective {c d : Data} (hc : charAccepted c = true) (hd : charAccepted d = true)
    (h : refIndex c = refIndex d) : c = d := by
  have hlo := (charAccepted_bounds hc).1
  have hlo' := (charAccepted_bounds hd).1
  refine BitVec.eq_of_toNat_eq ?_
  simp only [refIndex, charCode, charLo] at h
  omega

/-- All of the pattern but STOP: START B, the data symbols and the checksum symbol. -/
def patternBody (cs : List Data) : List Nat :=
  104 :: (cs.map refIndex ++ [refChecksum cs])

theorem refPattern_eq (cs : List Data) : refPattern cs = patternBody cs ++ [106] := by
  simp [refPattern, patternBody, startB, stopSym]

@[simp] theorem patternBody_length (cs : List Data) : (patternBody cs).length = cs.length + 2 := by
  simp [patternBody]

theorem patternBody_le {cs : List Data} (hall : cs.all charAccepted = true) : ∀ p ∈ patternBody cs, p ≤ 105 := by
  have hck := refChecksum_le cs
  have hidx : ∀ c ∈ cs, refIndex c ≤ 105 := fun c hc => by
    have := refIndex_le (List.all_eq_true.1 hall c hc)
    omega
  simp only [patternBody, List.mem_cons, List.mem_append, List.mem_map, List.not_mem_nil, or_false]
  rintro p (rfl | ⟨c, hc, rfl⟩ | rfl)
  · decide
  · exact hidx c hc
  · omega

theorem refDigits_eq (cfg : Config) (cs : List Data) :
    refDigits cfg cs = (patternBody cs).flatMap (digits cfg) ++ digits cfg 106 := by
  simp [refDigits, refPattern_eq]

/-- The segments of the body, counted and summed symbol by symbol. -/
theorem flatMap_digits_count {cfg : Config} (hw : cfg.wellFormed = true) {ps : List Nat} (hps : ∀ p ∈ ps, p ≤ 105) :
    (ps.flatMap (digits cfg)).length = 6 * ps.length ∧ (ps.flatMap (digits cfg)).sum = 11 * ps.length := by
  induction ps with
  | nil => simp
  | cons p ps ih =>
    obtain ⟨hp, hps⟩ := List.forall_mem_cons.1 hps
    obtain ⟨hlen, hsum⟩ := digits_symbol hw hp
    obtain ⟨ihlen, ihsum⟩ := ih hps
    rw [List.flatMap_cons, List.length_append, List.sum_append, List.length_cons, hlen, hsum, ihlen, ihsum]
    omega

/-- R197: 6n + 19 segments and 11n + 35 modules. -/
theorem refDigits_count {cfg : Config} (hw : cfg.wellFormed = true) {cs : List Data}
    (hall : cs.all charAccepted = true) :
    (refDigits cfg cs).length = 6 * cs.length + 19 ∧ (refDigits cfg cs).sum = 11 * cs.length + 35 := by
  obtain ⟨hlen, hsum⟩ := flatMap_digits_count hw (patternBody_le hall)
  obtain ⟨hstop, hstopSum⟩ := digits_stop hw
  rw [patternBody_length] at hlen hsum
  rw [refDigits_eq, List.length_append, List.sum_append]
  omega

/-- R196: segment `i` of the symbol at position `k` is output segment `6k + i`. -/
theorem refDigits_getElem? {cfg : Config} (hw : cfg.wellFormed = true) {cs : List Data}
    (hall : cs.all charAccepted = true) {k i p : Nat} (hp : (refPattern cs)[k]? = some p)
    (hi : i < (digits cfg p).length) : (refDigits cfg cs)[6 * k + i]? = (digits cfg p)[i]? := by
  refine getElem?_flatMap_of_length hp (fun q hq => (digits_symbol hw ?_).1) hi
  have hk : k ≤ (patternBody cs).length := by
    have := (List.getElem?_eq_some_iff.1 hp).1
    rw [refPattern_eq, List.length_append, List.length_singleton] at this
    omega
  rw [refPattern_eq, List.take_append_of_le_length hk] at hq
  exact patternBody_le hall q (List.mem_of_mem_take hq)

theorem refWords_getElem? (cfg : Config) (cs : List Data) (j : Nat) :
    (refWords cfg cs)[j]? = (refDigits cfg cs)[j]?.map fun d =>
      packSegment (j == (refDigits cfg cs).length - 1) (j % 2 == 0) (BitVec.ofNat 3 d) := by
  simp [refWords, List.getElem?_zipIdx, Function.comp_def]

theorem refSegments_getElem? (cfg : Config) (cs : List Data) (j : Nat) :
    (refSegments cfg cs)[j]? = (refDigits cfg cs)[j]?.map fun d => (j % 2 == 0, d) := by
  simp [refSegments, List.getElem?_zipIdx, Function.comp_def]

@[simp] theorem refWords_length (cfg : Config) (cs : List Data) :
    (refWords cfg cs).length = (refDigits cfg cs).length := by
  simp [refWords]

@[simp] theorem refSegments_length (cfg : Config) (cs : List Data) :
    (refSegments cfg cs).length = (refDigits cfg cs).length := by
  simp [refSegments]

theorem refDigits_bounds {cfg : Config} {cs : List Data} {d : Nat} (h : d ∈ refDigits cfg cs) : 1 ≤ d ∧ d ≤ 4 := by
  obtain ⟨p, -, hd⟩ := List.mem_flatMap.1 h
  exact digits_bounds hd

/-- Settles O52: the counts are `refDigits_count`, and word `j` packs width `j` of the output. -/
theorem outputShape : Obligations.OutputShape := by
  intro cfg cs hw hok
  obtain ⟨-, hall⟩ := (acceptable_iff cfg cs).1 hok
  obtain ⟨hlen, hsum⟩ := refDigits_count hw hall
  refine ⟨by simpa using hlen, by simpa using hlen, hsum, fun j x hx => ?_⟩
  rw [refWords_getElem?, hlen, Option.map_eq_some_iff] at hx
  obtain ⟨d, hd, rfl⟩ := hx
  obtain ⟨hlo, hhi⟩ := refDigits_bounds (List.mem_of_getElem? hd)
  have hwidth : (BitVec.ofNat 3 d).toNat = d := by
    rw [BitVec.toNat_ofNat]
    omega
  rw [segWordBar_packSegment, segWordLast_packSegment, segWordWidth_packSegment, hwidth]
  exact ⟨beq_iff_eq, beq_iff_eq, hlo, hhi, hd⟩

/-- Settles O53: the pattern begins with 104, whose symbol has six segments. -/
theorem startBInvariant : Obligations.StartBInvariant := by
  refine ⟨fun cfg cs hw _ => ?_, by decide +kernel⟩
  obtain ⟨hlen, hsum⟩ := digits_symbol hw (show 104 ≤ 105 by decide)
  have htake : (refDigits cfg cs).take 6 = digits cfg 104 := List.take_left' hlen
  have hfirst : (refDigits cfg cs)[0]? = (digits cfg 104)[0]? := by
    rw [← htake, List.getElem?_take_of_lt (by decide)]
  refine ⟨htake, hsum, (digits cfg 104)[0], ?_⟩
  rw [refSegments_getElem?, hfirst, List.getElem?_eq_getElem (by omega)]
  rfl

/-! ### The output determines the input -/

theorem refDigits_of_refSegments (cfg : Config) (cs : List Data) :
    (refSegments cfg cs).map Prod.snd = refDigits cfg cs := by
  simp [refSegments, Function.comp_def]

theorem dataDigits_length {cfg : Config} (hw : cfg.wellFormed = true) {cs : List Data}
    (hall : cs.all charAccepted = true) : ((cs.map refIndex).flatMap (digits cfg)).length = 6 * cs.length := by
  have hle : ∀ p ∈ cs.map refIndex, p ≤ 105 := fun p hp =>
    patternBody_le hall p (List.mem_cons_of_mem _ (List.mem_append_left _ hp))
  rw [(flatMap_digits_count hw hle).1, List.length_map]

/-- WF4 tells the symbols of two characters apart, and so those of two texts. -/
theorem dataDigits_injective {cfg : Config} (hw : cfg.wellFormed = true) {cs ds : List Data}
    (hcs : cs.all charAccepted = true) (hds : ds.all charAccepted = true) (hlength : cs.length = ds.length)
    (h : (cs.map refIndex).flatMap (digits cfg) = (ds.map refIndex).flatMap (digits cfg)) : cs = ds := by
  have hle (c : Data) (hc : charAccepted c = true) : refIndex c ≤ 102 := (refIndex_le hc).trans (by decide)
  rw [List.flatMap_map, List.flatMap_map] at h
  refine flatMap_injective_of_length (P := fun c => charAccepted c = true)
    (fun c hc => (digits_symbol hw ((hle c hc).trans (by decide))).1) (fun c d hc hd hcd => ?_)
    (List.all_eq_true.1 hcs) (List.all_eq_true.1 hds) hlength h
  exact refIndex_injective hc hd (digits_injective hw (hle c hc) (hle d hd) hcd)

/-- Settles O54: equal outputs are equally long, so their data symbols stand at the same places. -/
theorem outputDeterminesInput : Obligations.OutputDeterminesInput := by
  intro cfg cs ds hw hcs hds h
  obtain ⟨-, hall⟩ := (acceptable_iff cfg cs).1 hcs
  obtain ⟨-, hall'⟩ := (acceptable_iff cfg ds).1 hds
  have hdigits : refDigits cfg cs = refDigits cfg ds := by
    rw [← refDigits_of_refSegments, h, refDigits_of_refSegments]
  have hlength : cs.length = ds.length := by
    have hlen := (refDigits_count hw hall).1
    rw [hdigits, (refDigits_count hw hall').1] at hlen
    omega
  refine dataDigits_injective hw hall hall' hlength ?_
  simp only [refDigits_eq, patternBody, List.flatMap_cons, List.flatMap_append, List.append_assoc,
    List.append_cancel_left_eq] at hdigits
  exact List.append_inj_left hdigits (by rw [dataDigits_length hw hall, dataDigits_length hw hall', hlength])

end Sys2Proof.Machine
end

section
/-! Runs over the edges of host and sink (43_expander.md R199): the commands presented take effect one after another,
whatever the stalls between them. -/

namespace Sys2Proof.Machine

/-! ### Runs -/

theorem run_succ_of_step {M : Host.Core} {s t : M.State} (h : M.step s = .next t) (k : Nat) :
    M.run (k + 1) s = M.run k t := by
  rw [Host.Core.run, h]

theorem run_succ_next {M : Host.Core} {k : Nat} {s t : M.State} (h : M.run (k + 1) s = .next t) :
    ∃ u, M.step s = .next u ∧ M.run k u = .next t := by
  rw [Host.Core.run] at h
  split at h
  next u hu => exact ⟨u, hu, h⟩
  next => simp at h
  next => simp at h

/-- A run goes on from where a shorter one has come. -/
theorem run_add_of_run {M : Host.Core} {a : Nat} {s t : M.State} (h : M.run a s = .next t) (b : Nat) :
    M.run (a + b) s = M.run b t := by
  induction a generalizing s with
  | zero =>
    obtain rfl : s = t := Host.Outcome.next.inj h
    rw [Nat.zero_add]
  | succ a ih =>
    obtain ⟨u, hstep, hrun⟩ := run_succ_next h
    rw [Nat.succ_add, run_succ_of_step hstep, ih hrun]

/-- A run and one more step. -/
theorem run_succ_of_run {M : Host.Core} {a : Nat} {s t u : M.State} (h : M.run a s = .next t)
    (hstep : M.step t = .next u) : M.run (a + 1) s = .next u :=
  (run_add_of_run h 1).trans (run_succ_of_step hstep 0)

/-! ### The commands of a list, one after another -/

theorem execAll_cons_of_exec {i : Instr} {s t : State} (h : exec i s = .next t) (is : List Instr) :
    execAll (i :: is) s = execAll is t := by
  rw [execAll, h]

theorem execAll_cons_next {i : Instr} {is : List Instr} {s t : State} (h : execAll (i :: is) s = .next t) :
    ∃ u, exec i s = .next u ∧ execAll is u = .next t := by
  rw [execAll] at h
  split at h
  next u hu => exact ⟨u, hu, h⟩
  next => simp at h
  next => simp at h

theorem execAll_append_of_execAll {is js : List Instr} {s t : State} (h : execAll is s = .next t) :
    execAll (is ++ js) s = execAll js t := by
  induction is generalizing s with
  | nil =>
    obtain rfl : s = t := Host.Outcome.next.inj h
    rfl
  | cons i is ih =>
    obtain ⟨u, hu, hrest⟩ := execAll_cons_next h
    rw [List.cons_append, execAll_cons_of_exec hu, ih hrest]

theorem execAll_keeps_inv {is : List Instr} {s t : State} (h : Inv s) (hx : execAll is s = .next t) : Inv t := by
  induction is generalizing s with
  | nil =>
    obtain rfl : s = t := Host.Outcome.next.inj hx
    exact h
  | cons i is ih =>
    obtain ⟨u, hu, hrest⟩ := execAll_cons_next hx
    exact ih (exec_keeps_inv h hu) hrest

/-! ### Commands do not see the coming edges -/

/-- The state with these samples at the coming edges. -/
def withInputs (es : List Pins) (s : State) : State :=
  { s with inputs := es }

theorem withInputs_of_inputs {es : List Pins} {s : State} (h : s.inputs = es) : withInputs es s = s := by
  rw [← h, withInputs]

theorem nextEdge_eq_withInputs {p : Pins} {es : List Pins} {s : State} (h : s.inputs = p :: es) :
    nextEdge s = withInputs es s :=
  nextEdge_of_inputs h

/-- The outcome with its next state changed. -/
def mapNext (f : State → State) : Out → Out
  | .next s => .next (f s)
  | .fault r => .fault r
  | .refused r => .refused r

theorem onTransfer_withInputs (es : List Pins) (s : State) (arm : Out) :
    onTransfer (withInputs es s) (mapNext (withInputs es) arm) = mapNext (withInputs es) (onTransfer s arm) := by
  have hstuck : stuckFault (withInputs es s) = stuckFault s := rfl
  have hready : cmdReady (withInputs es s) = cmdReady s := rfl
  rw [onTransfer, onTransfer, hstuck, hready]
  cases stuckFault s with
  | some f => rfl
  | none => exact (apply_ite (mapNext (withInputs es)) (cmdReady s = true) arm (.next s)).symm

theorem unlessError_withInputs (es : List Pins) (s : State) (arm : Out) :
    unlessError (withInputs es s) (mapNext (withInputs es) arm) = mapNext (withInputs es) (unlessError s arm) :=
  (apply_ite (mapNext (withInputs es)) (s.state = .error) (.next s) arm).symm

theorem inTransaction_withInputs (es : List Pins) (s : State) (d : Data) (arm : Out) :
    inTransaction (withInputs es s) d (mapNext (withInputs es) arm) =
      mapNext (withInputs es) (inTransaction s d arm) :=
  (apply_ite (mapNext (withInputs es)) (s.state = .idle ∨ s.state = .done)
    (.next (raiseErr .protocol s.len d s)) arm).symm

theorem storeChar_withInputs (es : List Pins) (c : Data) (s : State) :
    storeChar c (withInputs es s) = mapNext (withInputs es) (storeChar c s) := by
  simp only [storeChar, apply_ite (mapNext (withInputs es))]
  rfl

/-- The samples of the coming edges are no operand of a command, and it leaves them (10_state.md R21). -/
theorem exec_withInputs (es : List Pins) (i : Instr) (s : State) :
    exec i (withInputs es s) = mapNext (withInputs es) (exec i s) := by
  cases i with
  | beginCmd d => exact onTransfer_withInputs es s (.next (openTransaction s))
  | charCmd c =>
    simp only [exec, execChar, storeChar_withInputs, inTransaction_withInputs, unlessError_withInputs,
      onTransfer_withInputs]
  | endCmd d =>
    simp only [exec, execEnd, ← onTransfer_withInputs, ← unlessError_withInputs, ← inTransaction_withInputs]
    rfl
  | rsvdCmd d =>
    simp only [exec, execRsvd, ← onTransfer_withInputs, ← unlessError_withInputs]
    rfl

theorem exec_withInputs_next {i : Instr} {s t : State} (es : List Pins) (h : exec i s = .next t) :
    exec i (withInputs es s) = .next (withInputs es t) := by
  rw [exec_withInputs, h, mapNext]

theorem execAll_withInputs_next {is : List Instr} {s t : State} (es : List Pins) (h : execAll is s = .next t) :
    execAll is (withInputs es s) = .next (withInputs es t) := by
  induction is generalizing s with
  | nil =>
    obtain rfl : s = t := Host.Outcome.next.inj h
    rfl
  | cons i is ih =>
    obtain ⟨u, hu, hrest⟩ := execAll_cons_next h
    rw [execAll_cons_of_exec (exec_withInputs_next es hu), ih hrest]

/-! ### The edges of a list of commands -/

/-- Only END closes the command port, so after any other command the block can take the next one (R21). -/
theorem ready_of_exec {i : Instr} {s t : State} (hready : ready s = true) (hend : ∀ d, i ≠ .endCmd d)
    (hx : exec i s = .next t) : ready t = true := by
  obtain ⟨-, ⟨rfl, -⟩ | ⟨-, -, rfl⟩ | ⟨code, -, hused, -, -, -, rfl⟩ | ⟨c, -, -, -, -, rfl⟩ | ⟨⟨d, hd⟩, -⟩⟩ :=
    exec_cases hx
  · exact hready
  · exact ready_openTransaction s
  · exact ready_of_used rfl (by simp) hused
  · exact hready
  · exact absurd hd (hend d)

theorem noReset_cons {p : Pins} {es : List Pins} (h : noReset (p :: es) = true) :
    p.rst = false ∧ noReset es = true := by
  simpa [noReset] using h

/-- An edge that presents the command of a block that can take it. -/
theorem step_presented {s t : State} {p : Pins} {rest : List Pins} {i : Instr} (hw : s.cfg.wellFormed = true)
    (hready : ready s = true) (hin : s.inputs = p :: rest) (hr : p.rst = false) (hv : p.cmdValid = true)
    (hi : decode p.cmdWord = i) (hx : exec i s = .next t) : step s = .next (withInputs rest t) := by
  rw [stepRunsPresentedCommand s p rest hw hready hin hr hv, hi]
  exact exec_withInputs_next rest hx

/-- An edge of a block that can take a command, at which the host presents none. -/
theorem step_host_stall {s : State} {p : Pins} {rest : List Pins} (hw : s.cfg.wellFormed = true)
    (hready : ready s = true) (hin : s.inputs = p :: rest) (hr : p.rst = false) (hv : p.cmdValid = false) :
    step s = .next (withInputs rest s) := by
  obtain ⟨hs, he⟩ := (ready_iff s).1 hready
  exact quietEdge s p rest hw hs hin hr (by simp [hv]) (by simp [segValid, he])

/-- Over edges that present the commands of a list without END the block runs them one after another; the edges without
a command change nothing. -/
theorem run_commands {es rest : List Pins} {is : List Instr} {s t : State} (hw : s.cfg.wellFormed = true)
    (hready : ready s = true) (hr : noReset es = true) (hwords : commandWords es = is.map encode)
    (hend : ∀ i ∈ is, ∀ d, i ≠ .endCmd d) (hin : s.inputs = es ++ rest) (hx : execAll is s = .next t) :
    Host.Core.run Sys2Proof.core es.length s = .next (withInputs rest t) ∧ ready t = true := by
  induction es generalizing s is t with
  | nil =>
    obtain rfl : [] = is := by simpa [commandWords, eq_comm] using hwords
    obtain rfl : s = t := Host.Outcome.next.inj hx
    exact ⟨congrArg Host.Outcome.next (withInputs_of_inputs hin).symm, hready⟩
  | cons p es ih =>
    obtain ⟨hp, hr⟩ := noReset_cons hr
    rw [List.cons_append] at hin
    cases hv : p.cmdValid with
    | false =>
      rw [List.length_cons, run_succ_of_step (M := Sys2Proof.core) (step_host_stall hw hready hin hp hv)]
      exact ih (s := withInputs (es ++ rest) s) (t := withInputs (es ++ rest) t) hw hready hr
        (by simpa [commandWords, hv] using hwords) hend rfl (execAll_withInputs_next _ hx)
    | true =>
      cases is with
      | nil => simp [commandWords, hv] at hwords
      | cons i is =>
        obtain ⟨hword, hwords⟩ : p.cmdWord = encode i ∧ commandWords es = is.map encode := by
          simpa [commandWords, hv] using hwords
        obtain ⟨hi, hend⟩ := List.forall_mem_cons.1 hend
        obtain ⟨u, hu, hrest⟩ := execAll_cons_next hx
        have hstep := step_presented hw hready hin hp hv (hword ▸ decode_encode i) hu
        have hready' : ready u = true := ready_of_exec hready hi hu
        rw [List.length_cons, run_succ_of_step (M := Sys2Proof.core) hstep]
        exact ih (s := withInputs (es ++ rest) u) (t := withInputs (es ++ rest) t) ((exec_cfg hu).symm ▸ hw)
          hready' hr hwords hend rfl (execAll_withInputs_next _ hrest)

end Sys2Proof.Machine
end

section
/-! The input phase of a transaction (43_expander.md R199): the edge of END comes last, the commands before it open the
transaction and store its characters, and the first bad character ends it in ERROR. -/

namespace Sys2Proof.Machine

/-! ### The edges of the input phase -/

theorem exists_last_of_getLast?_any {α : Type} {f : α → Bool} {l : List α} (h : l.getLast?.any f = true) :
    ∃ init x, l = init ++ [x] ∧ f x = true := by
  obtain ⟨x, hlast, hx⟩ := (Option.any_eq_true _ _).1 h
  obtain ⟨init, hl⟩ := List.getLast?_eq_some_iff.1 hlast
  exact ⟨init, x, hl, hx⟩

theorem noReset_concat {es : List Pins} {p : Pins} (h : noReset (es ++ [p]) = true) :
    noReset es = true ∧ p.rst = false := by
  simpa [noReset] using h

/-- The last edge presents END, and the edges before it BEGIN and the characters. -/
theorem inputPhase_split {es : List Pins} {d0 d1 : Data} {cs : List Data} (h : inputPhase es d0 cs d1 = true) :
    ∃ init p, es = init ++ [p] ∧ noReset init = true ∧ p.rst = false ∧ p.cmdValid = true ∧
      commandWords init = (Instr.beginCmd d0 :: cs.map .charCmd).map encode ∧ decode p.cmdWord = .endCmd d1 := by
  simp only [inputPhase, Bool.and_eq_true, beq_iff_eq] at h
  obtain ⟨⟨hr, hwords⟩, hends⟩ := h
  obtain ⟨init, p, rfl, hv⟩ := exists_last_of_getLast?_any hends
  obtain ⟨hr, hp⟩ := noReset_concat hr
  have hsplit : commandWords init ++ [p.cmdWord] =
      (Instr.beginCmd d0 :: cs.map .charCmd).map encode ++ [encode (.endCmd d1)] := by
    simpa [commandWords, transactionWords, hv, Function.comp_def] using hwords
  obtain ⟨hinit, hword⟩ := List.append_inj' hsplit rfl
  have hdecode : decode p.cmdWord = .endCmd d1 := by rw [List.singleton_inj.1 hword, decode_encode]
  exact ⟨init, p, rfl, hr, hp, hv, hinit, hdecode⟩

theorem execAll_cfg {is : List Instr} {s t : State} (hx : execAll is s = .next t) : t.cfg = s.cfg := by
  induction is generalizing s with
  | nil =>
    obtain rfl : s = t := Host.Outcome.next.inj hx
    rfl
  | cons i is ih =>
    obtain ⟨u, hu, hrest⟩ := execAll_cons_next hx
    exact (ih hrest).trans (exec_cfg hu)

/-- Over the edges of the input phase the block runs BEGIN, the characters and END. -/
theorem run_inputPhase {es rest : List Pins} {d0 d1 : Data} {cs : List Data} {s t u : State}
    (hw : s.cfg.wellFormed = true) (hready : ready s = true) (hphase : inputPhase es d0 cs d1 = true)
    (hin : s.inputs = es ++ rest) (hx : execAll (.beginCmd d0 :: cs.map .charCmd) s = .next t)
    (hend : exec (.endCmd d1) t = .next u) :
    Host.Core.run Sys2Proof.core es.length s = .next (withInputs rest u) := by
  obtain ⟨init, p, rfl, hr, hp, hv, hwords, hword⟩ := inputPhase_split hphase
  rw [List.append_assoc] at hin
  obtain ⟨hrun, hready'⟩ := run_commands hw hready hr hwords (by simp) hin hx
  have hstep : step (withInputs (p :: rest) t) = .next (withInputs rest u) :=
    step_presented (s := withInputs (p :: rest) t) (t := withInputs (p :: rest) u) ((execAll_cfg hx).symm ▸ hw)
      hready' rfl hp hv hword (exec_withInputs_next (p :: rest) hend)
  rw [List.length_append]
  exact run_succ_of_run (M := Sys2Proof.core) hrun hstep

/-! ### Accepted characters -/

theorem acceptChars_frame (cs : List Data) (s : State) :
    SameOutside s (acceptChars cs s) ∧ SameErr s (acceptChars cs s) := by
  induction cs generalizing s with
  | nil => exact ⟨⟨rfl, rfl, rfl⟩, rfl, rfl, rfl⟩
  | cons c cs ih => exact ih _

/-- BEGIN and accepted characters open a transaction and store them. -/
theorem execAll_begin_chars (d : Data) {cs : List Data} {s : State} (hready : ready s = true)
    (hok : acceptable s.cfg cs = true) :
    execAll (.beginCmd d :: cs.map .charCmd) s = .next (acceptChars cs (openTransaction s)) := by
  obtain ⟨hlen, hall⟩ := (acceptable_iff s.cfg cs).1 hok
  rw [execAll_cons_of_exec (exec_begin_of_ready d hready)]
  exact execAll_chars_eq_acceptChars rfl rfl (by simpa using hlen) hall

/-! ### The first bad character -/

theorem badAt_iff (cfg : Config) {cs : List Data} {i : Nat} {c : Data} (hc : cs[i]? = some c) :
    badAt cfg cs i = true ↔ i = cfg.maxLen ∨ charAccepted c = false := by
  simp [badAt, hc]

/-- R199: the characters before the first bad one are accepted. -/
theorem firstBad_spec {cfg : Config} {cs : List Data} {i : Nat} {c : Data} (h : firstBad cfg cs i = true)
    (hc : cs[i]? = some c) :
    (i = cfg.maxLen ∨ charAccepted c = false) ∧ acceptable cfg (cs.take i) = true := by
  obtain ⟨hbad, hgood⟩ := Bool.and_eq_true_iff.1 h
  have hi := (List.getElem?_eq_some_iff.1 hc).1
  have hbelow (j : Nat) (hj : j < i) : j ≠ cfg.maxLen ∧ charAccepted cs[j] = true := by
    have hnot : ¬ badAt cfg cs j = true := by simpa using List.all_eq_true.1 hgood j (List.mem_range.2 hj)
    simpa [badAt_iff cfg (List.getElem?_eq_getElem (show j < cs.length by omega))] using hnot
  refine ⟨(badAt_iff cfg hc).1 hbad, (acceptable_iff cfg _).2 ⟨?_, List.all_eq_true.2 fun x hx => ?_⟩⟩
  · have hle : i ≤ cfg.maxLen := Nat.not_lt.1 fun hlt => (hbelow cfg.maxLen hlt).1 rfl
    exact (List.length_take_le i cs).trans hle
  · obtain ⟨j, hj, rfl⟩ := List.mem_take_iff_getElem.1 hx
    exact (hbelow j (by omega)).2

/-- R199 (b): the error of the character at position `len` that is not accepted. -/
theorem storeChar_of_bad {c : Data} {s : State} (hbad : s.len = s.cfg.maxLen ∨ charAccepted c = false) :
    storeChar c s =
      .next (raiseErr (if s.len = s.cfg.maxLen then .lengthOverflow else .invalidChar) s.len c s) := by
  by_cases hl : s.len = s.cfg.maxLen
  · simp [storeChar, hl]
  · simp [storeChar, hl, hbad.resolve_left hl]

theorem ready_of_error {s : State} (hs : s.state = .error) (he : s.errCode.unused = false) : ready s = true :=
  ready_of_used (by rw [hs]; rfl) (by simp [hs]) he

/-- In ERROR characters are discarded (60_exceptions.md R230). -/
theorem execAll_chars_absorbed (cs : List Data) {s : State} (hs : s.state = .error) (he : s.errCode.unused = false) :
    execAll (cs.map .charCmd) s = .next s := by
  induction cs with
  | nil => rfl
  | cons c cs ih =>
    have hx : exec (.charCmd c) s = .next s :=
      (exec_char_of_ready c (ready_of_error hs he)).trans (unlessError_error _ hs)
    rw [List.map_cons, execAll_cons_of_exec hx, ih]

theorem exec_end_absorbed (d : Data) {s : State} (hs : s.state = .error) (he : s.errCode.unused = false) :
    exec (.endCmd d) s = .next s :=
  (exec_end_of_ready d (ready_of_error hs he)).trans (unlessError_error _ hs)

/-- The first bad character raises its error, and the characters after it change nothing. -/
theorem execAll_rejected {d : Data} {cs : List Data} {i : Nat} {c : Data} {s : State} (hready : ready s = true)
    (hfirst : firstBad s.cfg cs i = true) (hc : cs[i]? = some c) :
    execAll (.beginCmd d :: cs.map .charCmd) s =
      .next (raiseErr (if i = s.cfg.maxLen then .lengthOverflow else .invalidChar) i c
        (acceptChars (cs.take i) (openTransaction s))) := by
  obtain ⟨hbad, hok⟩ := firstBad_spec hfirst hc
  obtain ⟨hi, rfl⟩ := List.getElem?_eq_some_iff.1 hc
  have hlen : (acceptChars (cs.take i) (openTransaction s)).len = i := by simp [hi.le]
  have hraise := storeChar_of_bad (c := cs[i]) (s := acceptChars (cs.take i) (openTransaction s))
    (by rwa [hlen, acceptChars_cfg])
  have herr : (acceptChars (cs.take i) (openTransaction s)).errCode.unused = false := by
    rw [acceptChars_errCode]; rfl
  rw [← exec_char_of_load _ (acceptChars_state _ _) herr, hlen, acceptChars_cfg, openTransaction_cfg] at hraise
  conv_lhs => rw [← List.take_append_drop i cs, List.drop_eq_getElem_cons hi, List.map_append, ← List.cons_append]
  rw [execAll_append_of_execAll (execAll_begin_chars d hready hok), List.map_cons, execAll_cons_of_exec hraise]
  exact execAll_chars_absorbed _ rfl (by split <;> rfl)

/-- Settles O57: the error is taken at the first bad character, and ERROR absorbs the rest of the transaction. -/
theorem rejectedTransaction : Obligations.RejectedTransaction := by
  intro s es rest d0 d1 cs i c hw hready hphase hfirst hc hin
  have hx := execAll_rejected (d := d0) hready hfirst hc
  have hrun := run_inputPhase hw hready hphase hin hx (exec_end_absorbed d1 rfl (by split <;> rfl))
  obtain ⟨-, -, hdelivered⟩ := (acceptChars_frame (cs.take i) (openTransaction s)).1
  exact ⟨_, hrun, rfl, rfl, rfl, rfl, hdelivered, rfl, rfl⟩

end Sys2Proof.Machine
end

section
/-! The output phase of a transaction (43_expander.md R199): a block that holds a whole input delivers its reference
words, one per segment transfer, whatever the stalls between them. -/

namespace Sys2Proof.Machine

/-! ### A block that holds a whole input -/

/-- What END leaves of an accepted input `cs`, and the output reads: the indices in BUF, the checksum index, and no
error. -/
structure HoldsInput (cfg : Config) (cs : List Data) (s : State) : Prop where
  inv : Inv s
  cfg_eq : s.cfg = cfg
  accepted : cs.all charAccepted = true
  len_eq : s.len = cs.length
  entries : ∀ i c, cs[i]? = some c → bufRead s i = .ok (charIndex c)
  ckIdx_eq : s.ckIdx.toNat = refChecksum cs
  errPos_eq : s.errPos = 0
  errChar_eq : s.errChar = 0#8

theorem HoldsInput.wellFormed {cfg : Config} {cs : List Data} {s : State} (h : HoldsInput cfg cs s) :
    cfg.wellFormed = true :=
  h.cfg_eq ▸ h.inv.config

/-- After BEGIN, the characters and END the block holds the input. -/
theorem holdsInput_closeTransaction {cs : List Data} {s : State} (hw : s.cfg.wellFormed = true)
    (hok : acceptable s.cfg cs = true) :
    HoldsInput s.cfg cs (closeTransaction (acceptChars cs (openTransaction s))) := by
  obtain ⟨hlen, hall⟩ := (acceptable_iff s.cfg cs).1 hok
  have hroom : (openTransaction s).len + cs.length ≤ (openTransaction s).cfg.maxLen := by simpa using hlen
  have hload : (acceptChars cs (openTransaction s)).state = .load := acceptChars_state cs _
  have hinv : Inv (acceptChars cs (openTransaction s)) :=
    execAll_keeps_inv (inv_openTransaction hw) (execAll_chars_eq_acceptChars rfl rfl hroom hall)
  obtain ⟨-, -, hpos, hchar⟩ := acceptChars_frame cs (openTransaction s)
  exact {
    inv := inv_closeTransaction hinv hload
    cfg_eq := acceptChars_cfg cs _
    accepted := hall
    len_eq := by simp
    entries := fun i c hi =>
      (congrArg (bufRead _) (Nat.zero_add i).symm).trans (acceptChars_bufRead hroom hi)
    ckIdx_eq := acceptChars_openTransaction_acc s hall
    errPos_eq := hpos
    errChar_eq := hchar }

/-- A segment transfer leaves the input as it is. -/
theorem segOut_keeps_input {cfg : Config} {cs : List Data} {s t : State} (h : HoldsInput cfg cs s)
    (hs : s.state = .emit) (hx : segOut s = .next t) : HoldsInput cfg cs t := by
  obtain ⟨hcfg, -, hlen, -, hck, ⟨-, hpos, hchar⟩, hbuf⟩ := segOut_frame hx
  exact {
    inv := segOut_keeps_inv h.inv hs hx
    cfg_eq := hcfg.trans h.cfg_eq
    accepted := h.accepted
    len_eq := hlen.trans h.len_eq
    entries := fun i c hi => (hbuf i).trans (h.entries i c hi)
    ckIdx_eq := hck ▸ h.ckIdx_eq
    errPos_eq := hpos.trans h.errPos_eq
    errChar_eq := hchar.trans h.errChar_eq }

/-- The coming edges are no part of the input held. -/
theorem HoldsInput.withInputs {cfg : Config} {cs : List Data} {s : State} (h : HoldsInput cfg cs s)
    (es : List Pins) : HoldsInput cfg cs (withInputs es s) :=
  { h with inv := { h.inv with } }

/-! ### The pattern sequence and the current segment -/

/-- The block's pattern sequence is the reference pattern (42_concatenator.md R171, R177). -/
theorem HoldsInput.refPattern_getElem? {cfg : Config} {cs : List Data} {s : State} (h : HoldsInput cfg cs s) {k : Nat}
    {a : SymIdx} (hk : k ≤ cs.length + 2) (ha : patternAt s k = .ok a) : (refPattern cs)[k]? = some a.toNat := by
  have hlen := h.len_eq
  rcases patternAt_cases s k with ⟨rfl, e⟩ | ⟨hpos, hle, e⟩ | ⟨rfl, e⟩ | ⟨hge, e⟩ <;> rw [e] at ha
  · obtain rfl := Except.ok.inj ha
    rfl
  · obtain ⟨i, rfl⟩ : ∃ i, k = i + 1 := ⟨k - 1, by omega⟩
    have hi : i < cs.length := by omega
    have hget := List.getElem?_eq_getElem hi
    have hread := h.entries i _ hget
    rw [Nat.add_sub_cancel, hread] at ha
    obtain rfl := Except.ok.inj ha
    rw [charIndex_toNat_eq_refIndex (List.all_eq_true.1 h.accepted _ (List.getElem_mem hi))]
    simp [refPattern, List.getElem?_append, hi]
  · obtain rfl := Except.ok.inj ha
    simp [refPattern, hlen, h.ckIdx_eq]
  · obtain rfl := Except.ok.inj ha
    obtain rfl : k = cs.length + 2 := by omega
    simp [refPattern]

/-- The block is in EMIT, before segment `j` of its output. -/
structure Emitting (cfg : Config) (cs : List Data) (j : Nat) (s : State) : Prop extends HoldsInput cfg cs s where
  emitting : s.state = .emit
  position : j = 6 * s.symPtr + s.segPtr.toNat

theorem Emitting.symPtr_le {cfg : Config} {cs : List Data} {j : Nat} {s : State} (h : Emitting cfg cs j s) :
    s.symPtr ≤ cs.length + 2 :=
  h.len_eq ▸ h.inv.symPtr_le

section
variable {cfg : Config} {cs : List Data} {j : Nat} {s : State} {w : RomWord}

/-- Only STOP has seven segments (R172). -/
theorem Emitting.romLen_eq (h : Emitting cfg cs j s) (hw : currentSymbol s = .ok w) :
    romLen w = if s.symPtr = cs.length + 2 then 7 else 6 := by
  obtain ⟨-, u, -, -, hu, -, -, -, -, hlen⟩ :=
    patternSequence s s.symPtr h.inv (.inl h.emitting) h.inv.symPtr_le
  obtain rfl : u = w := Except.ok.inj (hu.symm.trans hw)
  rwa [h.len_eq] at hlen

/-- The width of the current segment is digit `j` of the output. -/
theorem Emitting.digit_eq (h : Emitting cfg cs j s) (hw : currentSegment s = .ok w) :
    (refDigits cfg cs)[j]? = some (romWidth w s.segPtr.toNat) := by
  obtain ⟨hsymbol, hlt⟩ := (currentSegment_ok_iff s w).1 hw
  obtain ⟨a, ha, hread⟩ := (symbolAt_ok_iff s s.symPtr w).1 hsymbol
  have hdigits : digits cfg a.toNat = romWidths w := by
    rw [← h.cfg_eq, digits_of_romWord ((romRead_ok_iff s a w).1 hread)]
  rw [h.position, refDigits_getElem? h.wellFormed h.accepted (h.refPattern_getElem? h.symPtr_le ha)
    (by rwa [hdigits, romWidths_length]), hdigits]
  simp [romWidths, hlt]

theorem Emitting.isLast_iff_position (h : Emitting cfg cs j s) (hw : currentSegment s = .ok w) :
    isLast s w = true ↔ j = 6 * cs.length + 18 := by
  obtain ⟨hsymbol, hlt⟩ := (currentSegment_ok_iff s w).1 hw
  have hlen := h.romLen_eq hsymbol
  have hle := h.symPtr_le
  rw [isLast_iff, h.len_eq, h.position]
  split at hlen <;> omega

/-- R196: the port shows word `j` of the output. -/
theorem Emitting.word_eq (h : Emitting cfg cs j s) (hw : currentSegment s = .ok w) :
    (refWords cfg cs)[j]? = some (segmentWord s w) := by
  have hlast : isLast s w = (j == 6 * cs.length + 19 - 1) := by
    rw [Bool.eq_iff_iff, h.isLast_iff_position hw, beq_iff_eq]
    rfl
  have hbar : isBar s.segPtr = (j % 2 == 0) := by
    rw [isBar_eq_decide, h.position]
    congr 1
    omega
  have hwidth : segmentWidth w s.segPtr = BitVec.ofNat 3 (romWidth w s.segPtr.toNat) := by
    rw [← segmentWidth_toNat, BitVec.ofNat_toNat, BitVec.setWidth_eq]
  rw [refWords_getElem?, h.digit_eq hw, (refDigits_count h.wellFormed h.accepted).1,
    Option.map_some, segmentWord, hlast, hbar, hwidth]

/-- R173: before the last segment the pointers move to the next one. -/
theorem Emitting.advance_position (h : Emitting cfg cs j s) (hw : currentSegment s = .ok w)
    (hj : j ≠ 6 * cs.length + 18) : j + 1 = 6 * (advance s w).symPtr + (advance s w).segPtr.toNat := by
  obtain ⟨hsymbol, hlt⟩ := (currentSegment_ok_iff s w).1 hw
  have hlen := h.romLen_eq hsymbol
  have hpos := h.position
  have hpointers := advance_pointers hlt
  have hlast : ¬(s.symPtr = s.len + 2 ∧ s.segPtr.toNat = romLen w - 1) := fun hl =>
    hj ((h.isLast_iff_position hw).1 ((isLast_iff s w).2 hl))
  rw [if_neg hlast] at hpointers
  rw [h.len_eq] at hlast
  split at hpointers
  case isTrue hends =>
    obtain ⟨hsym, hseg⟩ := Prod.mk.inj hpointers
    split at hlen <;> omega
  case isFalse =>
    obtain ⟨hsym, hseg⟩ := Prod.mk.inj hpointers
    omega

/-- R190: a segment transfer delivers word `j`, and the block goes on with the next one or is done. -/
theorem Emitting.segOut_delivers (h : Emitting cfg cs j s) :
    ∃ t x, segOut s = .next t ∧ t.inputs = s.inputs ∧ (refWords cfg cs)[j]? = some x ∧
      t.delivered = s.delivered ++ [x] ∧ HoldsInput cfg cs t ∧
      (j = 6 * cs.length + 18 → t.state = .done) ∧ (j ≠ 6 * cs.length + 18 → Emitting cfg cs (j + 1) t) := by
  obtain ⟨-, w, hsymbol, hlt⟩ := h.inv.pointers h.emitting
  have hw : currentSegment s = .ok w := (currentSegment_ok_iff s w).2 ⟨hsymbol, hlt⟩
  have hx := segOut_ok hw
  have hstate := advance_state s w
  have hholds := segOut_keeps_input h.toHoldsInput h.emitting hx
  refine ⟨_, segmentWord s w, hx, (segOut_frame hx).2.1, h.word_eq hw, by simp, hholds, fun hj => ?_,
    fun hj => ⟨hholds, ?_, h.advance_position hw hj⟩⟩
  · rw [emitWord_state, hstate, if_pos ((h.isLast_iff_position hw).2 hj)]
  · rw [emitWord_state, hstate, if_neg (mt (h.isLast_iff_position hw).1 hj), h.emitting]

/-! ### The edges of the output phase -/

theorem Emitting.withInputs (h : Emitting cfg cs j s) (es : List Pins) : Emitting cfg cs j (withInputs es s) :=
  { h with toHoldsInput := h.toHoldsInput.withInputs es }

/-- In EMIT an edge without reset at which the sink accepts is a segment transfer (10_state.md R22). -/
theorem step_accepted {s t : State} {p : Pins} {rest : List Pins} (h : Inv s) (hs : s.state = .emit)
    (hin : s.inputs = p :: rest) (hr : p.rst = false) (hready : p.segReady = true)
    (hx : segOut (withInputs rest s) = .next t) : step s = .next t := by
  obtain ⟨u, hu⟩ := stepAlwaysAnswers s h
  obtain rfl := pins_of_inputs hin
  have hseg := step_segment hu hr hs hready
  rw [nextEdge_eq_withInputs hin, hx] at hseg
  rw [hu, hseg]

/-- In EMIT an edge without reset at which the sink does not accept changes nothing. -/
theorem step_sink_stall {s : State} {p : Pins} {rest : List Pins} (h : Inv s) (hs : s.state = .emit)
    (hin : s.inputs = p :: rest) (hr : p.rst = false) (hready : p.segReady = false) :
    step s = .next (withInputs rest s) := by
  obtain ⟨u, hu⟩ := stepAlwaysAnswers s h
  obtain rfl := pins_of_inputs hin
  rw [hu, step_stall hu hr hs hready, nextEdge_eq_withInputs hin]

/-- Before the last segment: each edge at which the sink accepts delivers the next word of the output. -/
theorem Emitting.run {fs rest : List Pins} (h : Emitting cfg cs j s) (hr : noReset fs = true)
    (hin : s.inputs = fs ++ rest) (hroom : j + accepts fs ≤ 6 * cs.length + 18) :
    ∃ t, Host.Core.run Sys2Proof.core fs.length s = .next t ∧ t.inputs = rest ∧
      t.delivered = s.delivered ++ ((refWords cfg cs).drop j).take (accepts fs) ∧
      Emitting cfg cs (j + accepts fs) t := by
  induction fs generalizing j s with
  | nil => exact ⟨s, rfl, hin, by simp [accepts], h⟩
  | cons p fs ih =>
    obtain ⟨hp, hr⟩ := noReset_cons hr
    rw [List.cons_append] at hin
    cases hready : p.segReady with
    | false =>
      have haccepts : accepts (p :: fs) = accepts fs := by simp [accepts, hready]
      rw [haccepts] at hroom ⊢
      rw [List.length_cons,
        run_succ_of_step (M := Sys2Proof.core) (step_sink_stall h.inv h.emitting hin hp hready)]
      exact ih (h.withInputs _) hr rfl hroom
    | true =>
      have haccepts : accepts (p :: fs) = accepts fs + 1 := by simp [accepts, hready]
      rw [haccepts] at hroom ⊢
      obtain ⟨t, x, hx, hinputs, hword, hdelivered, -, -, hnext⟩ := (h.withInputs (fs ++ rest)).segOut_delivers
      rw [List.length_cons, run_succ_of_step (M := Sys2Proof.core) (step_accepted h.inv h.emitting hin hp hready hx)]
      obtain ⟨u, hrun, hrest, hwords, hu⟩ := ih (hnext (by omega)) hr hinputs (by omega)
      refine ⟨u, hrun, hrest, ?_, by rwa [Nat.add_comm (accepts fs) 1, ← Nat.add_assoc]⟩
      obtain ⟨hj, rfl⟩ := List.getElem?_eq_some_iff.1 hword
      rw [hwords, hdelivered, List.drop_eq_getElem_cons hj, List.take_succ_cons, List.append_assoc]
      rfl

/-- The last edge is the one at which the sink accepts the last segment. -/
theorem outputPhase_split {fs : List Pins} {n : Nat} (h : outputPhase fs n = true) :
    ∃ init p, fs = init ++ [p] ∧ noReset init = true ∧ p.rst = false ∧ p.segReady = true ∧
      accepts init = 6 * n + 18 := by
  simp only [outputPhase, Bool.and_eq_true, beq_iff_eq] at h
  obtain ⟨⟨hr, haccepts⟩, hends⟩ := h
  obtain ⟨init, p, rfl, hready⟩ := exists_last_of_getLast?_any hends
  obtain ⟨hr, hp⟩ := noReset_concat hr
  have hcount : accepts init + 1 = 6 * n + 19 := by simpa [accepts, hready, refSegCount] using haccepts
  exact ⟨init, p, rfl, hr, hp, hready, by omega⟩

/-- Over the edges of the output phase the block delivers the whole output and is done. -/
theorem Emitting.run_outputPhase {fs rest : List Pins} (h : Emitting cfg cs 0 s)
    (hphase : outputPhase fs cs.length = true) (hin : s.inputs = fs ++ rest) :
    ∃ t, Host.Core.run Sys2Proof.core fs.length s = .next t ∧ t.inputs = rest ∧ t.state = .done ∧
      t.delivered = s.delivered ++ refWords cfg cs ∧ HoldsInput cfg cs t := by
  obtain ⟨init, p, rfl, hr, hp, hready, haccepts⟩ := outputPhase_split hphase
  rw [List.append_assoc] at hin
  obtain ⟨u, hrun, hrest, hwords, hu⟩ := h.run hr hin (by omega)
  rw [haccepts, Nat.zero_add] at hu
  obtain ⟨t, x, hx, hinputs, hword, hdelivered, hholds, hdone, -⟩ := (hu.withInputs rest).segOut_delivers
  have hstep := step_accepted hu.inv hu.emitting hrest hp hready hx
  rw [List.length_append]
  refine ⟨t, run_succ_of_run (M := Sys2Proof.core) hrun hstep, hinputs, hdone rfl, ?_, hholds⟩
  have hlength : (refWords cfg cs).length = 6 * cs.length + 18 + 1 := by
    rw [refWords_length, (refDigits_count h.wellFormed h.accepted).1]
  obtain ⟨hj, rfl⟩ := List.getElem?_eq_some_iff.1 hword
  calc t.delivered
      = u.delivered ++ [(refWords cfg cs)[6 * cs.length + 18]] := hdelivered
    _ = s.delivered ++ ((refWords cfg cs).take (6 * cs.length + 18) ++ [(refWords cfg cs)[6 * cs.length + 18]]) := by
      rw [hwords, haccepts, List.drop_zero, List.append_assoc]
    _ = s.delivered ++ refWords cfg cs := by
      rw [List.take_append_getElem, List.take_of_length_le hlength.le]

end

end Sys2Proof.Machine
end

section
/-! Whole transactions (43_expander.md R199, R200): what an accepted one delivers, and what an observer sees of it. -/

namespace Sys2Proof.Machine

/-! ### An accepted transaction -/

/-- The block after END: it holds the input and has delivered nothing of its output. -/
theorem run_acceptedInput {s : State} {es rest : List Pins} {d0 d1 : Data} {cs : List Data}
    (hw : s.cfg.wellFormed = true) (hready : ready s = true) (hok : acceptable s.cfg cs = true)
    (hphase : inputPhase es d0 cs d1 = true) (hin : s.inputs = es ++ rest) :
    ∃ t, Host.Core.run Sys2Proof.core es.length s = .next t ∧ t.inputs = rest ∧ t.delivered = s.delivered ∧
      Emitting s.cfg cs 0 t := by
  have hload : (acceptChars cs (openTransaction s)).state = .load := acceptChars_state cs _
  have herr : (acceptChars cs (openTransaction s)).errCode.unused = false := by rw [acceptChars_errCode]; rfl
  have hrun := run_inputPhase hw hready hphase hin (execAll_begin_chars d0 hready hok)
    (exec_end_of_load d1 hload herr)
  obtain ⟨-, -, hdelivered⟩ := (acceptChars_frame cs (openTransaction s)).1
  exact ⟨_, hrun, rfl, hdelivered, (holdsInput_closeTransaction hw hok).withInputs rest, rfl, rfl⟩

/-- The block after the whole transaction: it has delivered the whole output. -/
theorem run_acceptedTransaction {s : State} {es fs rest : List Pins} {d0 d1 : Data} {cs : List Data}
    (hw : s.cfg.wellFormed = true) (hready : ready s = true) (hok : acceptable s.cfg cs = true)
    (hinput : inputPhase es d0 cs d1 = true) (houtput : outputPhase fs cs.length = true)
    (hin : s.inputs = es ++ fs ++ rest) :
    ∃ u, Host.Core.run Sys2Proof.core (es.length + fs.length) s = .next u ∧ u.inputs = rest ∧ u.state = .done ∧
      u.delivered = s.delivered ++ refWords s.cfg cs ∧ HoldsInput s.cfg cs u := by
  obtain ⟨t, hrun, hinputs, hdelivered, ht⟩ :=
    run_acceptedInput hw hready hok hinput (hin.trans (List.append_assoc ..))
  rw [run_add_of_run (M := Sys2Proof.core) hrun, ← hdelivered]
  exact ht.run_outputPhase houtput hinputs

/-- Settles O56: after END the block holds the input, and over the output phase it delivers the reference words. -/
theorem transactionContract : Obligations.TransactionContract := by
  intro s es fs rest d0 d1 cs hw hready hok hinput houtput hin
  obtain ⟨t, hrun, hinputs, hdelivered, ht⟩ :=
    run_acceptedInput hw hready hok hinput (hin.trans (List.append_assoc ..))
  obtain ⟨u, hrun', hinputs', hdone, hdelivered', hu⟩ :=
    run_acceptedTransaction hw hready hok hinput houtput hin
  exact ⟨t, u, hrun, ht.emitting, ht.ckIdx_eq, hdelivered, hinputs, hrun', hdone,
    hu.inv.errCode_none (by simp [hdone]), hu.len_eq, hu.ckIdx_eq, hdelivered', hinputs'⟩

/-! ### Two transactions with the same characters -/

/-- The output reads no more of the configuration than the ROM. -/
theorem refWords_congr {cfg cfg' : Config} (h : cfg'.rom = cfg.rom) (cs : List Data) :
    refWords cfg' cs = refWords cfg cs := by
  have hdigits : digits cfg' = digits cfg := by
    funext p
    simp only [digits, romWord, h]
  simp only [refWords, refDigits, hdigits]

/-- What an observer sees of a finished transaction with the input `cs` (92_eei_decisions.md D30). -/
def doneObservation (cfg : Config) (cs : List Data) : Observation :=
  { words := refWords cfg cs
    state := ctlBits .done
    errCode := errBits .none
    errPos := 0
    errChar := 0#8
    len := cs.length
    ckIdx := BitVec.ofNat 7 (refChecksum cs)
    totalSegs := 6 * cs.length + 19
    totalModules := 11 * cs.length + 35 }

theorem HoldsInput.observe_done {cfg : Config} {cs : List Data} {s u : State} (h : HoldsInput cfg cs u)
    (hdone : u.state = .done) (hdelivered : u.delivered = s.delivered ++ refWords cfg cs) :
    observe s u = doneObservation cfg cs := by
  obtain ⟨hstate, herr, hpos, hchar, hlen, hck, hsegs, hmodules⟩ := statusPorts u u.inputs h.inv
  have hcode := h.inv.errCode_none (by simp [hdone])
  have hckIdx : u.ckIdx = BitVec.ofNat 7 (refChecksum cs) := by
    rw [← h.ckIdx_eq, BitVec.ofNat_toNat, BitVec.setWidth_eq]
  simp only [observe, doneObservation, Observation.mk.injEq]
  exact ⟨by simp [hdelivered], by rw [hstate, hdone], by rw [herr, hcode], by rw [hpos, h.errPos_eq],
    by rw [hchar, h.errChar_eq], by rw [hlen, h.len_eq], by rw [hck, hckIdx], by rw [hsegs, h.len_eq],
    by rw [hmodules, h.len_eq]⟩

/-- Settles O58: both blocks show `doneObservation`, which names the ROM and the characters only. -/
theorem transactionsAreDeterministic : Obligations.TransactionsAreDeterministic := by
  intro s s' es fs es' fs' d0 d1 d0' d1' cs hw hw' hrom hready hready' hok hok' hinput houtput hin hinput' houtput' hin'
  obtain ⟨u, hrun, -, hdone, hdelivered, hu⟩ :=
    run_acceptedTransaction (rest := []) hw hready hok hinput houtput (by simpa using hin)
  obtain ⟨u', hrun', -, hdone', hdelivered', hu'⟩ :=
    run_acceptedTransaction (rest := []) hw' hready' hok' hinput' houtput' (by simpa using hin')
  have hsame : doneObservation s'.cfg cs = doneObservation s.cfg cs := by
    simp only [doneObservation, refWords_congr hrom]
  refine ⟨u, u', hrun, hrun', ?_, ?_⟩
  · rw [hu.observe_done hdone hdelivered, hu'.observe_done hdone' hdelivered', hsame]
  · rw [hu.observe_done hdone hdelivered]
    rfl

end Sys2Proof.Machine
end

section
/-! Errors (60_exceptions.md R220 to R231): which command raises which error and what the error writes, what a block in
ERROR does with its commands, and the ways into ERROR and out of it. -/

namespace Sys2Proof.Machine

/-! ### The table of R220 -/

/-- The error that a command raises outside EMIT and ERROR, if it raises one: the rows of R220, in the order of
R228. -/
def raisedCode (i : Instr) (s : State) : Option ErrCode :=
  match i with
  | .beginCmd _ => none
  | .charCmd c =>
    if s.state = .idle ∨ s.state = .done then some .protocol
    else if s.len = s.cfg.maxLen then some .lengthOverflow
    else if charAccepted c then none
    else some .invalidChar
  | .endCmd _ => if s.state = .idle ∨ s.state = .done then some .protocol else none
  | .rsvdCmd _ => some .illegalCmd

theorem charAccepted_eq_false_iff (c : Data) : charAccepted c = false ↔ c.toNat < 32 ∨ 126 < c.toNat := by
  have hrange : charAccepted c = true ↔ 32 ≤ c.toNat ∧ c.toNat ≤ 126 :=
    ⟨charAccepted_bounds, fun ⟨hlo, hhi⟩ => charAccepted_of_bounds hlo hhi⟩
  rw [← Bool.not_eq_true, hrange]
  omega

/-- The three rows of CHAR, with what decides between them. -/
theorem raisedCode_char_iff (c : Data) (s : State) (code : ErrCode) :
    raisedCode (.charCmd c) s = some code ↔
      (s.state = .idle ∨ s.state = .done) ∧ code = .protocol ∨
      ¬(s.state = .idle ∨ s.state = .done) ∧
        (s.len = s.cfg.maxLen ∧ code = .lengthOverflow ∨
         s.len ≠ s.cfg.maxLen ∧ charAccepted c = false ∧ code = .invalidChar) := by
  simp only [raisedCode]
  split_ifs with hclosed hfull hc
  · simp [hclosed, @eq_comm _ code]
  · simp [hclosed, hfull, @eq_comm _ code]
  · simp [hclosed, hfull, hc]
  · simp [hclosed, hfull, hc, @eq_comm _ code]

theorem raisedCode_end_iff (d : Data) (s : State) (code : ErrCode) :
    raisedCode (.endCmd d) s = some code ↔ (s.state = .idle ∨ s.state = .done) ∧ code = .protocol := by
  simp [raisedCode, @eq_comm _ code]

/-- Among the states outside EMIT and ERROR, LOAD is the one with an open transaction. -/
theorem load_iff_not_idle_or_done {s : State} (hready : ready s = true) (herr : s.state ≠ .error) :
    s.state = .load ↔ ¬(s.state = .idle ∨ s.state = .done) := by
  obtain ⟨hs, he⟩ := (ready_iff s).1 hready
  constructor
  · intro hl
    simp [hl]
  · intro hn
    obtain ⟨hi, hd⟩ := not_or.1 hn
    exact state_load_of_not hs he herr hi hd

/-- A command with a row in the table takes its error. -/
theorem exec_of_raisedCode {i : Instr} {s : State} {code : ErrCode} (hready : ready s = true) (herr : s.state ≠ .error)
    (h : raisedCode i s = some code) : exec i s = .next (raiseErr code s.len (dataOf i) s) := by
  cases i with
  | beginCmd d => simp [raisedCode] at h
  | charCmd c =>
    rw [exec_char_of_ready c hready, unlessError_of_ne _ herr]
    obtain ⟨hclosed, rfl⟩ | ⟨hclosed, ⟨hfull, rfl⟩ | ⟨hfull, hc, rfl⟩⟩ := (raisedCode_char_iff c s code).1 h
    · exact if_pos hclosed
    · simp [inTransaction, hclosed, storeChar, hfull, dataOf]
    · simp [inTransaction, hclosed, storeChar, hfull, hc, dataOf]
  | endCmd d =>
    rw [exec_end_of_ready d hready, unlessError_of_ne _ herr]
    obtain ⟨hclosed, rfl⟩ := (raisedCode_end_iff d s code).1 h
    exact if_pos hclosed
  | rsvdCmd d =>
    cases h
    exact (exec_rsvd_of_ready d hready).trans (unlessError_of_ne _ herr)

/-- A command without a row in the table takes no error. -/
theorem exec_not_error_of_raisedCode_none {i : Instr} {s t : State} (hready : ready s = true) (herr : s.state ≠ .error)
    (h : raisedCode i s = none) (hx : exec i s = .next t) : t.state ≠ .error := by
  have hload := load_iff_not_idle_or_done hready herr
  cases i with
  | beginCmd d => simp [begin_transition hready hx]
  | charCmd c =>
    simp only [raisedCode] at h
    split_ifs at h with hclosed hfull hc
    simp [(char_transition hready hx).1, hload.2 hclosed, hfull, hc]
  | endCmd d =>
    simp only [raisedCode] at h
    split_ifs at h with hclosed
    simp [(end_transition hready hx).1, hload.2 hclosed]
  | rsvdCmd d => simp [raisedCode] at h

/-- Outside EMIT and ERROR the table says exactly which command raises which error. -/
theorem exec_raises_iff {i : Instr} {s : State} (hready : ready s = true) (herr : s.state ≠ .error) (code : ErrCode) :
    (∃ t, exec i s = .next t ∧ Raised code (dataOf i) s t) ↔ raisedCode i s = some code := by
  constructor
  · rintro ⟨t, hx, hstate, hcode, -⟩
    cases h : raisedCode i s with
    | none => exact absurd hstate (exec_not_error_of_raisedCode_none hready herr h hx)
    | some code' =>
      rw [exec_of_raisedCode hready herr h] at hx
      obtain rfl := Host.Outcome.next.inj hx
      exact congrArg some hcode
  · intro h
    exact ⟨_, exec_of_raisedCode hready herr h, raised_raiseErr code (dataOf i) s⟩

/-! ### CHAR -/

/-- Settles O23: the three rows of CHAR in the table. -/
theorem charRaisesErrors : Obligations.CharRaisesErrors := by
  refine ⟨fun c s hs he hfull => ?_, fun c s hs he hlt hc => ?_, fun c s hs he => ?_⟩
  · exact (exec_raises_iff (i := .charCmd c) (ready_of_load hs he) (by simp [hs]) _).2 (by simp [raisedCode, hs, hfull])
  · have hbad := (charAccepted_eq_false_iff c).2 hc
    exact (exec_raises_iff (i := .charCmd c) (ready_of_load hs he) (by simp [hs]) _).2
      (by simp [raisedCode, hs, hlt.ne, hbad])
  · have hready : ready s = true := by
      rcases hs with h | h <;> exact ready_of_used (by rw [h]; rfl) (by simp [h]) he
    have herr : s.state ≠ .error := by rcases hs with h | h <;> simp [h]
    exact (exec_raises_iff (i := .charCmd c) hready herr _).2 (if_pos hs)

/-! ### Entering ERROR -/

/-- R226: a command that takes the block to ERROR runs `raiseErr` at `len` with its data field. -/
theorem exec_enters_error {i : Instr} {s t : State} (hx : exec i s = .next t) (hs : s.state ≠ .error)
    (ht : t.state = .error) :
    ∃ code, code ≠ .none ∧ code.unused = false ∧ t = raiseErr code s.len (dataOf i) s := by
  obtain ⟨-, ⟨rfl, -⟩ | ⟨-, -, rfl⟩ | ⟨code, hcode, hused, -, -, -, rfl⟩ | ⟨_, -, hload, -, -, rfl⟩ | ⟨-, -, rfl⟩⟩ :=
    exec_cases hx
  · exact absurd ht hs
  · simp at ht
  · exact ⟨code, hcode, hused, rfl⟩
  · simp [hload] at ht
  · simp at ht

/-- Settles O28: the status ports show the registers that `raiseErr` writes. -/
theorem errorEntry : Obligations.ErrorEntry := by
  intro i s t hx hs ht
  obtain ⟨code, hcode, hused, rfl⟩ := exec_enters_error hx hs ht
  exact ⟨raised_raiseErr code (dataOf i) s, hcode, hused, rfl, rfl, rfl, rfl⟩

theorem segOut_not_error {s t : State} (hx : segOut s = .next t) (hs : s.state ≠ .error) : t.state ≠ .error := by
  obtain ⟨w, -, rfl⟩ := segOut_next hx
  rw [emitWord_state, advance_state]
  split
  · simp
  · exact hs

/-- Of the events of an edge only a command transfer enters ERROR. -/
theorem step_enters_error {s t : State} (hx : step s = .next t) (hs : s.state ≠ .error) (ht : t.state = .error) :
    (pins s).rst = false ∧ (pins s).cmdValid = true ∧ cmdReady s = true := by
  obtain ⟨-, ⟨-, rfl⟩ | ⟨hr, -, ⟨he, hv, -⟩ | ⟨-, -, hseg⟩ | ⟨-, -, rfl⟩⟩⟩ := step_cases hx
  · simp at ht
  · exact ⟨hr, hv, by simp [cmdReady, he]⟩
  · exact absurd ht (segOut_not_error hseg hs)
  · exact absurd ht hs

section
variable {i : Instr} {s : State}

theorem raisedCode_eq_invalidChar_iff (hload : s.state = .load ↔ ¬(s.state = .idle ∨ s.state = .done))
    (hlen : s.len ≤ s.cfg.maxLen) :
    raisedCode i s = some .invalidChar ↔
      ∃ c, i = .charCmd c ∧ s.state = .load ∧ s.len < s.cfg.maxLen ∧ (c.toNat < 32 ∨ 126 < c.toNat) := by
  cases i with
  | charCmd c =>
    rw [raisedCode_char_iff]
    simp [hload, hlen.lt_iff_ne, ← charAccepted_eq_false_iff]
  | _ => simp [raisedCode]

theorem raisedCode_eq_lengthOverflow_iff (hload : s.state = .load ↔ ¬(s.state = .idle ∨ s.state = .done)) :
    raisedCode i s = some .lengthOverflow ↔ ∃ c, i = .charCmd c ∧ s.state = .load ∧ s.len = s.cfg.maxLen := by
  cases i with
  | charCmd c =>
    rw [raisedCode_char_iff]
    simp [hload]
  | _ => simp [raisedCode]

theorem raisedCode_eq_protocol_iff :
    raisedCode i s = some .protocol ↔
      ∃ d, (i = .charCmd d ∨ i = .endCmd d) ∧ (s.state = .idle ∨ s.state = .done) := by
  cases i with
  | charCmd c => simp [raisedCode_char_iff]
  | endCmd d => simp [raisedCode_end_iff]
  | _ => simp [raisedCode]

theorem raisedCode_eq_illegalCmd_iff : raisedCode i s = some .illegalCmd ↔ ∃ d, i = .rsvdCmd d := by
  cases i with
  | charCmd c => simp [raisedCode_char_iff]
  | _ => simp [raisedCode]

end

/-- Settles O29: the four rows of the table; neither a segment transfer nor any other event enters ERROR. -/
theorem errorCauses : Obligations.ErrorCauses := by
  refine ⟨fun i s hready herr hlen => ?_, fun s t hx => ?_, fun s t => step_enters_error⟩
  · have hload := load_iff_not_idle_or_done hready herr
    simp only [exec_raises_iff hready herr]
    exact ⟨raisedCode_eq_invalidChar_iff hload hlen, raisedCode_eq_lengthOverflow_iff hload,
      raisedCode_eq_protocol_iff, raisedCode_eq_illegalCmd_iff⟩
  · obtain ⟨-, -, -, -, -, hframe, -⟩ := segOut_frame hx
    exact ⟨hframe, segOut_not_error hx⟩

/-! ### In ERROR -/

/-- R230: in ERROR every command but BEGIN is discarded. -/
theorem exec_absorbed {i : Instr} {s : State} (hs : s.state = .error) (he : s.errCode.unused = false)
    (hi : ∀ d, i ≠ .beginCmd d) : exec i s = .next s := by
  have hready := ready_of_error hs he
  cases i with
  | beginCmd d => exact absurd rfl (hi d)
  | charCmd c => exact (exec_char_of_ready c hready).trans (unlessError_error _ hs)
  | endCmd d => exact exec_end_absorbed d hs he
  | rsvdCmd d => exact (exec_rsvd_of_ready d hready).trans (unlessError_error _ hs)

/-- Settles O30: none of the three is BEGIN. -/
theorem errorAbsorbsCommands : Obligations.ErrorAbsorbsCommands :=
  fun _ s hs he => ⟨by simp [cmdReady, hs], exec_absorbed hs he (by simp), exec_absorbed hs he (by simp),
    exec_absorbed hs he (by simp)⟩

theorem decode_ne_begin {w : CmdWord} (h : opField w ≠ 0b00#2) (d : Data) : decode w ≠ .beginCmd d :=
  fun hd => h (by simpa [encode] using ((decode_eq_iff w _).1 hd).1)

/-- In ERROR an edge without reset and without a BEGIN changes nothing. -/
theorem step_in_error {s : State} {p : Pins} {rest : List Pins} (hw : s.cfg.wellFormed = true) (hs : s.state = .error)
    (he : s.errCode.unused = false) (hin : s.inputs = p :: rest) (hr : p.rst = false)
    (hop : p.cmdValid = true → opField p.cmdWord ≠ 0b00#2) : step s = .next (withInputs rest s) := by
  have hready := ready_of_error hs he
  cases hv : p.cmdValid with
  | false => exact step_host_stall hw hready hin hr hv
  | true => exact step_presented hw hready hin hr hv rfl (exec_absorbed hs he (decode_ne_begin (hop hv)))

/-- Settles O51, by induction on the edges. -/
theorem errorRunsDeliverNothing : Obligations.ErrorRunsDeliverNothing := by
  intro es rest s hw hs he hr hops hin
  induction es generalizing s with
  | nil => exact congrArg Host.Outcome.next (withInputs_of_inputs hin).symm
  | cons p es ih =>
    obtain ⟨hp, hr⟩ := noReset_cons hr
    have hop : p.cmdValid = true → opField p.cmdWord ≠ 0b00#2 := fun hv => hops _ (by simp [commandWords, hv])
    have hops' : ∀ w ∈ commandWords es, opField w ≠ 0b00#2 := fun w hmem => hops w (by
      cases hv : p.cmdValid <;> simp_all [commandWords])
    rw [List.length_cons, run_succ_of_step (M := Sys2Proof.core) (step_in_error hw hs he hin hp hop)]
    exact ih (withInputs (es ++ rest) s) hw hs he hr hops' rfl

/-! ### Leaving ERROR, and entering EMIT -/

/-- Settles O49: a command that leaves ERROR is not discarded, so it is BEGIN. -/
theorem leavingError : Obligations.LeavingError := by
  intro s t hs hx ht
  obtain ⟨-, ⟨hr, rfl⟩ | ⟨hr, -, ⟨-, hv, hcmd⟩ | ⟨hemit, -⟩ | ⟨-, -, rfl⟩⟩⟩ := step_cases hx
  · exact .inl ⟨hr, rfl⟩
  · obtain ⟨-, ⟨rfl, -⟩ | ⟨hbegin, -, rfl⟩ | ⟨_, -, -, -, hne, -⟩ | ⟨_, -, hload, -⟩ | ⟨-, hload, -⟩⟩ := exec_cases hcmd
    · exact absurd hs ht
    · exact .inr ⟨hr, hv, hbegin, rfl, rfl, rfl, rfl⟩
    · exact absurd hs hne
    · simp [hs] at hload
    · simp [hs] at hload
  · simp [hs] at hemit
  · exact absurd hs ht

/-- A command that takes the block to EMIT is END in LOAD. -/
theorem exec_enters_emit {i : Instr} {s t : State} (hx : exec i s = .next t) (hs : s.state ≠ .emit)
    (ht : t.state = .emit) : s.state = .load ∧ ∃ d, i = .endCmd d := by
  obtain ⟨-, ⟨rfl, -⟩ | ⟨-, -, rfl⟩ | ⟨_, -, -, -, -, -, rfl⟩ | ⟨_, -, -, -, -, rfl⟩ | ⟨hend, hload, -⟩⟩ := exec_cases hx
  · exact absurd ht hs
  · simp at ht
  · simp at ht
  · exact absurd ht hs
  · exact ⟨hload, hend⟩

/-- Settles O50: outside EMIT the events of an edge are reset, a command transfer and none. -/
theorem emitEnteredOnlyByEnd : Obligations.EmitEnteredOnlyByEnd := by
  intro s t hx hs
  obtain ⟨-, ⟨-, rfl⟩ | ⟨-, -, ⟨-, hv, hcmd⟩ | ⟨hemit, -⟩ | ⟨-, -, rfl⟩⟩⟩ := step_cases hx
  · exact ⟨rfl, fun ht => by simp at ht⟩
  · refine ⟨by simpa using exec_delivered hcmd, fun ht => ?_⟩
    obtain ⟨hload, hend⟩ := exec_enters_emit hcmd hs ht
    exact ⟨hload, hv, hend⟩
  · exact absurd hemit hs
  · exact ⟨rfl, fun ht => absurd ht hs⟩

/-! ### One event per edge -/

theorem edgeEvent_of_reset {s : State} (hr : (pins s).rst = true) :
    edgeEvent s = .next (resetRegisters (nextEdge s)) :=
  if_pos hr

/-- Settles O15: a reset edge reads no other port, and the two ready outputs tell apart EMIT and the other states. -/
theorem oneEventPerEdge : Obligations.OneEventPerEdge := by
  refine ⟨fun s p q rest hp hq => ?_, fun s => by simp [cmdReady, segValid]⟩
  have hedge : edgeEvent { s with inputs := p :: rest } = edgeEvent { s with inputs := q :: rest } :=
    (edgeEvent_of_reset (s := { s with inputs := p :: rest }) hp).trans
      (edgeEvent_of_reset (s := { s with inputs := q :: rest }) hq).symm
  simp only [step, clockEdge, hedge]

end Sys2Proof.Machine
end

section
/-! Reset and the ports of a block in EMIT (70_reset_and_hazards.md): the reset event of R250, the stable segment of
R257, and the command that waits for the end of the output (R256, R260). -/

namespace Sys2Proof.Machine

/-! ### The reset event -/

/-- R250: a reset edge clears the registers, in any state. -/
theorem step_reset {s : State} {p : Pins} {rest : List Pins} (hw : s.cfg.wellFormed = true)
    (hin : s.inputs = p :: rest) (hr : p.rst = true) : step s = .next (resetRegisters (withInputs rest s)) := by
  rw [step_eq_edgeEvent hw, edgeEvent_of_reset (by rw [pins_of_inputs hin, hr]), nextEdge_eq_withInputs hin]

/-- Settles O14: `resetRegisters` writes the reset values, and an empty BUF holds no entry. -/
theorem resetEvent : Obligations.ResetEvent := by
  intro s p rest hw hin hr
  exact ⟨_, step_reset hw hin hr, rfl, rfl, rfl, rfl, rfl, rfl, rfl, rfl, rfl, noEntry_of_buf_nil rfl, rfl, rfl, rfl,
    segWordPort_of_not_valid rfl, rfl, rfl⟩

/-! ### A segment that the sink does not accept -/

theorem segValid_iff (s : State) : segValid s = true ↔ s.state = .emit :=
  beq_iff_eq

/-- The coming edges are no register. -/
theorem sameBlock_withInputs (es : List Pins) (s : State) : sameBlock s (withInputs es s) = true := by
  simp [sameBlock, withInputs]

/-- Settles O17: `cmd_ready` is 0 in EMIT, so neither transfer happens at the edge. -/
theorem segmentStability : Obligations.SegmentStability := by
  intro s p rest hw herr hvalid hin hr hseg
  have hs : s.state = .emit := (segValid_iff s).1 hvalid
  have hstep : step s = .next (withInputs rest s) :=
    quietEdge s p rest hw (stuckFault_of_emit hs herr) hin hr (by simp [cmdReady, hs]) (by simp [hseg])
  exact ⟨_, hstep, hvalid, rfl, sameBlock_withInputs rest s⟩

/-! ### A command that waits in EMIT -/

/-- R190: the segment transfer of the last segment takes the block to DONE. -/
theorem step_last_segment {s : State} {p : Pins} {rest : List Pins} {w : RomWord} (h : Inv s) (hs : s.state = .emit)
    (hw : currentSymbol s = .ok w) (hlast : isLast s w = true) (hin : s.inputs = p :: rest) (hr : p.rst = false)
    (hready : p.segReady = true) : ∃ t, step s = .next t ∧ t.state = .done ∧ t.inputs = rest ∧ Inv t := by
  have h' : Inv (withInputs rest s) := { h with }
  obtain ⟨t, hx⟩ := segOut_answers h' hs
  have hstep := step_accepted h hs hin hr hready hx
  obtain ⟨u, hu, hdone⟩ := segOut_transition (s := withInputs rest s) hs hx
  obtain rfl : u = w := Except.ok.inj (hu.symm.trans hw)
  exact ⟨t, hstep, hdone.trans (if_pos hlast), (segOut_frame hx).2.1, segOut_keeps_inv h' hs hx⟩

/-- Settles O19: the last segment transfer leaves DONE, where the block takes the command of the edge after it. -/
theorem waitingCommandRunsAfterOutput : Obligations.WaitingCommandRunsAfterOutput := by
  intro s p q rest w h hs hw hlast hin hr hready hqr hqv
  obtain ⟨t, hstep, hdone, hinputs, ht⟩ := step_last_segment h hs hw hlast hin hr hready
  have htakes : ready t = true := (ready_iff t).2 ⟨ht.not_stuck, by simp [hdone]⟩
  exact ⟨t, hstep, hdone, hinputs, stepRunsPresentedCommand t q rest ht.config htakes hinputs hqr hqv⟩

end Sys2Proof.Machine
end

section
/-! A transaction cut short by reset (70_reset_and_hazards.md R251), and one without stalls, edge by edge (R262). -/

namespace Sys2Proof.Machine

/-! ### Reset during the output -/

/-- R193: only the final word of an output has the last bit. -/
theorem refWords_take_not_last {cfg : Config} {cs : List Data} {k : Nat} (hw : cfg.wellFormed = true)
    (hok : acceptable cfg cs = true) (hk : k < refSegCount cs.length) :
    ∀ x ∈ (refWords cfg cs).take k, segWordLast x = false := by
  intro x hx
  obtain ⟨j, hj, rfl⟩ := List.mem_take_iff_getElem.1 hx
  obtain ⟨-, -, -, hwords⟩ := outputShape cfg cs hw hok
  obtain ⟨-, hlast, -⟩ := hwords j _ (List.getElem?_eq_getElem (by omega))
  rw [← Bool.not_eq_true, hlast]
  rw [refSegCount] at hk
  omega

/-- Settles O59: the block delivers one word per accepting edge, and the reset edge delivers none. -/
theorem resetCutsTheStream : Obligations.ResetCutsTheStream := by
  intro s es fs rest p d0 d1 cs hw hready hok hinput hr hcut hp hin
  obtain ⟨t, hrun, hinputs, hdelivered, ht⟩ :=
    run_acceptedInput hw hready hok hinput (hin.trans (List.append_assoc ..))
  obtain ⟨u, hrun', hrest, hwords, hu⟩ := ht.run hr hinputs (by rw [refSegCount] at hcut; omega)
  have hreset := step_reset hu.inv.config hrest hp
  have hprefix : Host.Core.run Sys2Proof.core (es.length + fs.length) s = .next u :=
    (run_add_of_run (M := Sys2Proof.core) hrun _).trans hrun'
  refine ⟨_, run_succ_of_run (M := Sys2Proof.core) hprefix hreset, rfl, rfl, ?_,
    refWords_take_not_last hw hok hcut⟩
  exact hwords.trans (by rw [hdelivered, List.drop_zero])

/-! ### A host that is always ready -/

theorem all_take {α : Type} {f : α → Bool} {l : List α} (h : l.all f = true) (k : Nat) : (l.take k).all f = true :=
  List.all_eq_true.2 fun x hx => List.all_eq_true.1 h x (List.mem_of_mem_take hx)

theorem commandWords_of_all_valid {es : List Pins} (h : es.all (·.cmdValid) = true) :
    commandWords es = es.map (·.cmdWord) := by
  rw [commandWords, List.filter_eq_self.2 (List.all_eq_true.1 h)]

theorem commandWords_take {es : List Pins} (h : es.all (·.cmdValid) = true) (k : Nat) :
    commandWords (es.take k) = (commandWords es).take k := by
  rw [commandWords_of_all_valid h, commandWords_of_all_valid (all_take h k), List.map_take]

/-- R262: without stalls the input takes one edge per command. -/
theorem inputPhase_length {es : List Pins} {d0 d1 : Data} {cs : List Data} (h : inputPhase es d0 cs d1 = true)
    (hv : es.all (·.cmdValid) = true) : es.length = cs.length + 2 := by
  simp only [inputPhase, Bool.and_eq_true, beq_iff_eq, commandWords_of_all_valid hv] at h
  obtain ⟨⟨-, hwords⟩, -⟩ := h
  simpa [transactionWords] using congrArg List.length hwords

theorem acceptable_take {cfg : Config} {cs : List Data} (h : acceptable cfg cs = true) (k : Nat) :
    acceptable cfg (cs.take k) = true := by
  obtain ⟨hlen, hall⟩ := (acceptable_iff cfg cs).1 h
  exact (acceptable_iff cfg _).2 ⟨(List.length_take_le' k cs).trans hlen, all_take hall k⟩

/-- Without stalls, after BEGIN and `k` characters the block is in LOAD. -/
theorem run_inputPrefix {s : State} {es rest : List Pins} {d0 d1 : Data} {cs : List Data} {k : Nat}
    (hw : s.cfg.wellFormed = true) (hready : ready s = true) (hok : acceptable s.cfg cs = true)
    (hphase : inputPhase es d0 cs d1 = true) (hv : es.all (·.cmdValid) = true) (hin : s.inputs = es ++ rest)
    (hk : k ≤ cs.length) : ∃ t, Host.Core.run Sys2Proof.core (k + 1) s = .next t ∧ t.state = .load := by
  have hlen := inputPhase_length hphase hv
  obtain ⟨init, p, rfl, hr, -, -, hwords, -⟩ := inputPhase_split hphase
  obtain ⟨hinit, -⟩ := Bool.and_eq_true_iff.1 (List.all_append.symm.trans hv)
  have hprefix : commandWords (init.take (k + 1)) = (Instr.beginCmd d0 :: (cs.take k).map .charCmd).map encode := by
    rw [commandWords_take hinit, hwords, ← List.map_take, List.take_succ_cons, ← List.map_take]
  have hin' : s.inputs = init.take (k + 1) ++ (init.drop (k + 1) ++ ([p] ++ rest)) := by
    rw [hin, ← List.append_assoc, List.take_append_drop, List.append_assoc]
  have hlength : (init.take (k + 1)).length = k + 1 := by
    rw [List.length_append, List.length_singleton] at hlen
    exact List.length_take_of_le (by omega)
  obtain ⟨hrun, -⟩ := run_commands hw hready (all_take hr (k + 1)) hprefix
    (List.forall_mem_cons.2 ⟨by simp, List.forall_mem_map.2 fun _ _ => by simp⟩) hin'
    (execAll_begin_chars d0 hready (acceptable_take hok k))
  rw [hlength] at hrun
  exact ⟨_, hrun, acceptChars_state (cs.take k) (openTransaction s)⟩

/-! ### A sink that is always ready -/

theorem accepts_of_all_ready {fs : List Pins} (h : fs.all (·.segReady) = true) : accepts fs = fs.length := by
  rw [accepts, List.filter_eq_self.2 (List.all_eq_true.1 h)]

/-- R262: without stalls the output takes one edge per segment. -/
theorem outputPhase_length {fs : List Pins} {n : Nat} (h : outputPhase fs n = true)
    (hready : fs.all (·.segReady) = true) : fs.length = 6 * n + 19 := by
  simp only [outputPhase, Bool.and_eq_true, beq_iff_eq, accepts_of_all_ready hready] at h
  obtain ⟨⟨-, hcount⟩, -⟩ := h
  exact hcount

/-- Without stalls, the block stays in EMIT up to the last edge of the output. -/
theorem Emitting.run_outputPrefix {cfg : Config} {cs : List Data} {s : State} {fs rest : List Pins} {k : Nat}
    (h : Emitting cfg cs 0 s) (hphase : outputPhase fs cs.length = true) (hready : fs.all (·.segReady) = true)
    (hin : s.inputs = fs ++ rest) (hk : k < 6 * cs.length + 19) :
    ∃ t, Host.Core.run Sys2Proof.core k s = .next t ∧ t.state = .emit := by
  have hlen := outputPhase_length hphase hready
  simp only [outputPhase, Bool.and_eq_true] at hphase
  obtain ⟨⟨hr, -⟩, -⟩ := hphase
  have hlength : (fs.take k).length = k := List.length_take_of_le (by omega)
  have haccepts : accepts (fs.take k) = k :=
    (accepts_of_all_ready (all_take hready k)).trans hlength
  have hin' : s.inputs = fs.take k ++ (fs.drop k ++ rest) := by
    rw [hin, ← List.append_assoc, List.take_append_drop]
  obtain ⟨t, hrun, -, -, ht⟩ := h.run (all_take hr k) hin' (by omega)
  exact ⟨t, hlength ▸ hrun, ht.emitting⟩

/-- Settles O60: before edge `n + 2` the block is in LOAD, from then on in EMIT, and after the last edge in DONE. -/
theorem readyTransactionTakes7nPlus21Edges : Obligations.ReadyTransactionTakes7nPlus21Edges := by
  intro s es fs rest d0 d1 cs hw hready hok hinput hv houtput hsink hin
  have hes := inputPhase_length hinput hv
  have hfs := outputPhase_length houtput hsink
  have htotal : es.length + fs.length = 7 * cs.length + 21 := by omega
  have hsplit : s.inputs = es ++ (fs ++ rest) := hin.trans (List.append_assoc ..)
  refine ⟨hes, hfs, htotal, fun k hpos hk => ?_, ?_⟩
  · by_cases hinside : k < cs.length + 2
    case pos =>
      obtain ⟨j, rfl⟩ : ∃ j, k = j + 1 := ⟨k - 1, by omega⟩
      obtain ⟨t, hrun, hload⟩ := run_inputPrefix (k := j) hw hready hok hinput hv hsplit (by omega)
      refine ⟨t, hrun, by simp [hload], ?_⟩
      rw [decide_eq_false (by omega)]
      simp [segValid, hload]
    case neg =>
      obtain ⟨j, rfl⟩ : ∃ j, k = es.length + j := ⟨k - es.length, by omega⟩
      obtain ⟨t, hrun, hinputs, -, ht⟩ := run_acceptedInput hw hready hok hinput hsplit
      obtain ⟨u, hrun', hemit⟩ := ht.run_outputPrefix (k := j) houtput hsink hinputs (by omega)
      refine ⟨u, (run_add_of_run (M := Sys2Proof.core) hrun j).trans hrun', by simp [hemit], ?_⟩
      rw [decide_eq_true (by omega), (segValid_iff u).2 hemit]
  · obtain ⟨u, hrun, -, hdone, -⟩ := run_acceptedTransaction hw hready hok hinput houtput hin
    exact ⟨u, htotal ▸ hrun, hdone, by simp [cmdReady, hdone]⟩

end Sys2Proof.Machine
end

section
/-! Worked examples (95_test_vectors.md): the checksums are evaluated; an output is START B, the symbols of the text and
of its checksum, and STOP, each read from the reference ROM. -/

namespace Sys2Proof.Machine

/-- With the reference ROM (log entry 14), what lies between the widths of START B and those of STOP. -/
theorem refDigits_referenceConfig (cs : List Data) :
    refDigits referenceConfig cs =
      [2, 1, 1, 2, 1, 4] ++ (cs.map refIndex ++ [refChecksum cs]).flatMap (digits referenceConfig)
        ++ [2, 3, 3, 1, 1, 1, 2] := by
  obtain ⟨-, hstart⟩ := startBInvariant
  have hstop : digits referenceConfig 106 = [2, 3, 3, 1, 1, 1, 2] := by decide
  rw [refDigits_eq, patternBody, List.flatMap_cons, hstart, hstop]

/-- Settles O55: the output of `""` has only its checksum symbol 1 in between, that of `"~"` the symbols 94 and 95. -/
theorem workedExamples : Obligations.WorkedExamples := by
  have hempty : refChecksum [] = 1 := by decide
  have htilde : refChecksum [126] = 95 := by decide
  refine ⟨hempty, by decide, by decide, htilde, by decide, by decide, by decide, by decide, ?_, ?_⟩
  · have h1 : digits referenceConfig 1 = [2, 2, 2, 1, 2, 2] := by decide
    simp [refDigits_referenceConfig, hempty, h1]
  · have hindex : refIndex 126 = 94 := by decide
    have h94 : digits referenceConfig 94 = [1, 3, 1, 1, 4, 1] := by decide
    have h95 : digits referenceConfig 95 = [1, 1, 4, 1, 1, 3] := by decide
    rw [refDigits_referenceConfig, htilde, List.map_singleton, hindex]
    simp [h94, h95]

end Sys2Proof.Machine
end
